-- ==== Sys2Proof/Word.lean ====
section
/-! DEFINITION. The bit vectors that cross the FTU's ports, and the register index. -/

namespace Sys2Proof

/-- A command word `CMD[15:0]` (R51). -/
abbrev CmdWord := BitVec 16

/-- A 64-bit bus value: `DATA`, `RSP_DATA`, `RNG_SIGMA`, `RNG_DATA` (R9, R50). -/
abbrev Data := BitVec 64

/-- The index of a torus register, `T0` to `T7` (R20): the value of a 3-bit register field. -/
abbrev TReg := Fin 8

end Sys2Proof
end

