-- ==== Sys2Proof/Config.lean ====
section
/-! DEFINITION. What an instance fixes at build time (R6 to R8), and the constant with no body that stands for what
the spec leaves open. -/

namespace Sys2Proof

/-- The build parameters of one instance (R6). The bounds of R7 travel with the width, so that no other width can be
written down (93_implementation_defined.md U9, U10). No command reads or changes them (R25). -/
structure Params where
  /-- `W`, the bit width of a torus value (R7). -/
  w : Nat
  /-- `HAS_RNG`: the instance has the random-source port and the two sampling commands (R8). -/
  hasRng : Bool
  wPos : 1 ≤ w
  wMax : w ≤ 32
deriving DecidableEq, Repr

/-- The instance `State.reset` describes: `W = 16`, `HAS_RNG = 1`. DESIGN CHOICE, unsafe: R7 asks for 16 and 32 and
R8 for either flag; only statements about `State.reset` itself rest on it (log 2). -/
def Params.standard : Params := ⟨16, true, by decide, by decide⟩

/-- The other required width, `W = 32` (R7). -/
def Params.wide : Params := ⟨32, true, by decide, by decide⟩

/-- A free value: what register `T[reg]` holds after the reset numbered `count` (0 is power-on), when it held `old`
before it. R29 and R141 fix no value, forbid assuming zero and forbid assuming that the old content is kept; the
register is `W` bits wide, so only the low `W` bits are used. DESIGN CHOICE, unsafe: one content per reset, read alike
by every read until it is written (log 3). -/
opaque Config.torusAfterReset (count reg : Nat) (old : BitVec 32) : BitVec 32

end Sys2Proof
end

