-- ==== Sys2Proof/Syntax.lean ====
section
/-! DEFINITION. The twelve commands of R56, with the operands R57 and R65 give each, and what crosses the ports. -/

namespace Sys2Proof

/-- The commands of the FTU (R56), one constructor per row of the opcode table. A command carries the part of `DATA`
that R65 assembles into its operand; a command that ignores all of `DATA` (R52) carries none. -/
inductive Instr where
  /-- FROMRAW (R75); `data[W-1:0]` is the raw value, `data[W..]` is ignored (R65). -/
  | fromraw (rd : TReg) (data : Data)
  /-- FROMREAL (R76); `f` is a 64-bit floating-point real. -/
  | fromreal (rd : TReg) (f : Data)
  /-- TORAW (R78). -/
  | toraw (rs1 : TReg)
  /-- TOREAL (R79). -/
  | toreal (rs1 : TReg)
  /-- SIGN (R100). -/
  | sign (rs1 : TReg)
  /-- ADD (R85). -/
  | add (rd rs1 rs2 : TReg)
  /-- SUB (R86). -/
  | sub (rd rs1 rs2 : TReg)
  /-- NEG (R87). -/
  | neg (rd rs1 : TReg)
  /-- MULI (R88); `k` is `DATA[31:0]`, read as a signed integer (R65). -/
  | muli (rd rs1 : TReg) (k : BitVec 32)
  /-- MULR (R89); `k` is a 64-bit floating-point real. -/
  | mulr (rd rs1 : TReg) (k : Data)
  /-- UNIFORM (R107). -/
  | uniform (rd : TReg)
  /-- NORMAL (R108); `sigma` is a 64-bit floating-point standard deviation. -/
  | normal (rd : TReg) (sigma : Data)
deriving DecidableEq, Repr

/-- One transfer on the command channel (R50): the word and the operand that accompanies every command (R52). -/
structure Command where
  cmd : CmdWord
  data : Data
deriving DecidableEq, Repr

/-- `STATUS` (R53). -/
inductive Status where
  /-- The command completed. -/
  | ok
  /-- A floating-point operand or Gaussian draw that must be finite is not (R116). -/
  | invalidInput
  /-- The standard deviation of NORMAL is negative or not finite (R117). -/
  | invalidParam
  /-- The word is no legal encoding in this instance (R118). -/
  | illegalCmd
deriving DecidableEq, Repr

/-- One transfer on the response channel (R50, R54). -/
structure Response where
  status : Status
  data : Data
deriving DecidableEq, Repr

/-- `RNG_KIND` (R55). -/
inductive DrawKind where
  /-- 64 uniformly random bits. -/
  | bits
  /-- One Gaussian sample of mean 0. -/
  | gauss
deriving DecidableEq, Repr

/-- One transfer on the draw request channel (R50, R55): `RNG_KIND` and `RNG_SIGMA`. -/
structure DrawRequest where
  kind : DrawKind
  sigma : Data
deriving DecidableEq, Repr

/-- Why a command word is no legal encoding (R58 to R61). Every one of them ends the command with `ILLEGAL_CMD`. -/
inductive DecodeError where
  /-- `OP` is `0x0`, `0xD`, `0xE` or `0xF` (R59). -/
  | reservedOp
  /-- `CMD[2:0]` is not zero (R51). -/
  | nonzeroZ
  /-- A register field that the command does not use is not zero (R61). -/
  | nonzeroUnusedField
deriving DecidableEq, Repr

/-- The five pseudo-instructions (R64), under the spelling of the source form they stand for. -/
inductive Pseudo where
  /-- `ADD Td, Tb` (`t += other`). -/
  | addInto (td tb : TReg)
  /-- `SUB Td, Tb` (`t -= other`). -/
  | subInto (td tb : TReg)
  /-- `MULI Td, #k` (`t *= k`, integer). -/
  | muliInto (td : TReg) (k : BitVec 32)
  /-- `MULR Td, #f` (`t *= k`, real). -/
  | mulrInto (td : TReg) (f : Data)
  /-- `MULI Td, #k, Ta` (`k * t`). -/
  | muliSwapped (td : TReg) (k : BitVec 32) (ta : TReg)
deriving DecidableEq, Repr

end Sys2Proof
end

