-- ==== Sys2Proof/Decode.lean ====
section
/-! DEFINITION. The command word's fields (R51), the decoder (R57 to R61) and the encoder (R57, R63), and the words
of the pseudo-instructions (R64) and of the port codes (R53, R55). -/

namespace Sys2Proof

/-- `OP = CMD[15:12]` (R51). -/
def opField (w : CmdWord) : Nat := w.toNat / 2 ^ 12

/-- `RD = CMD[11:9]` (R51). -/
def rdField (w : CmdWord) : TReg := ⟨w.toNat / 2 ^ 9 % 8, Nat.mod_lt _ (by decide)⟩

/-- `RS1 = CMD[8:6]` (R51). -/
def rs1Field (w : CmdWord) : TReg := ⟨w.toNat / 2 ^ 6 % 8, Nat.mod_lt _ (by decide)⟩

/-- `RS2 = CMD[5:3]` (R51). -/
def rs2Field (w : CmdWord) : TReg := ⟨w.toNat / 2 ^ 3 % 8, Nat.mod_lt _ (by decide)⟩

/-- `Z = CMD[2:0]`, reserved, must be zero (R51). -/
def zField (w : CmdWord) : Nat := w.toNat % 8

/-- A command whose word also has `Z` and every unused register field at zero, or the reason it is illegal
(R51, R61). -/
def legalIf (w : CmdWord) (unused : List TReg) (i : Instr) : Except DecodeError Instr :=
  if zField w ≠ 0 then .error .nonzeroZ
  else if unused.all (· == 0) then .ok i
  else .error .nonzeroUnusedField

/-- The decoder (R58), total on all words; it depends on the word alone, and takes the operand from `DATA` as R65
says. Step (2) of R58, the test of `HAS_RNG`, depends on the instance and is the first thing the meanings of UNIFORM
and NORMAL do. -/
def decode (c : Command) : Except DecodeError Instr :=
  let w := c.cmd
  match opField w with
  | 0x1 => legalIf w [rs1Field w, rs2Field w] (.fromraw (rdField w) c.data)
  | 0x2 => legalIf w [rs1Field w, rs2Field w] (.fromreal (rdField w) c.data)
  | 0x3 => legalIf w [rdField w, rs2Field w] (.toraw (rs1Field w))
  | 0x4 => legalIf w [rdField w, rs2Field w] (.toreal (rs1Field w))
  | 0x5 => legalIf w [rdField w, rs2Field w] (.sign (rs1Field w))
  | 0x6 => legalIf w [] (.add (rdField w) (rs1Field w) (rs2Field w))
  | 0x7 => legalIf w [] (.sub (rdField w) (rs1Field w) (rs2Field w))
  | 0x8 => legalIf w [rs2Field w] (.neg (rdField w) (rs1Field w))
  | 0x9 => legalIf w [rs2Field w] (.muli (rdField w) (rs1Field w) (c.data.setWidth 32))
  | 0xA => legalIf w [rs2Field w] (.mulr (rdField w) (rs1Field w) c.data)
  | 0xB => legalIf w [rs1Field w, rs2Field w] (.uniform (rdField w))
  | 0xC => legalIf w [rs1Field w, rs2Field w] (.normal (rdField w) c.data)
  | _ => .error .reservedOp

/-- The word of a command, `(OP << 12) | (RD << 9) | (RS1 << 6) | (RS2 << 3)` (R57); the fields do not overlap, so
the sum is the bitwise or. -/
def wordOf (op : Nat) (rd rs1 rs2 : TReg) : CmdWord :=
  BitVec.ofNat 16 (op * 2 ^ 12 + rd.val * 2 ^ 9 + rs1.val * 2 ^ 6 + rs2.val * 2 ^ 3)

/-- The encoder: the transfer the assembler of R63 writes for a command, with 0 for ignored `DATA` bits. -/
def encode : Instr → Command
  | .fromraw rd d => ⟨wordOf 0x1 rd 0 0, d⟩
  | .fromreal rd f => ⟨wordOf 0x2 rd 0 0, f⟩
  | .toraw a => ⟨wordOf 0x3 0 a 0, 0⟩
  | .toreal a => ⟨wordOf 0x4 0 a 0, 0⟩
  | .sign a => ⟨wordOf 0x5 0 a 0, 0⟩
  | .add rd a b => ⟨wordOf 0x6 rd a b, 0⟩
  | .sub rd a b => ⟨wordOf 0x7 rd a b, 0⟩
  | .neg rd a => ⟨wordOf 0x8 rd a 0, 0⟩
  | .muli rd a k => ⟨wordOf 0x9 rd a 0, k.setWidth 64⟩
  | .mulr rd a k => ⟨wordOf 0xA rd a 0, k⟩
  | .uniform rd => ⟨wordOf 0xB rd 0 0, 0⟩
  | .normal rd sd => ⟨wordOf 0xC rd 0 0, sd⟩

/-- The one command a pseudo-instruction expands to (R64). -/
def Pseudo.expand : Pseudo → Instr
  | .addInto td tb => .add td td tb
  | .subInto td tb => .sub td td tb
  | .muliInto td k => .muli td td k
  | .mulrInto td f => .mulr td td f
  | .muliSwapped td k ta => .muli td ta k

/-- A register in assembler text, `T0` to `T7` (R63). -/
def TReg.asm (r : TReg) : String := "T" ++ toString r.val

/-- A real immediate in the exact form `#f64:0x...`, sixteen hexadecimal digits (R63). -/
def f64Asm (f : Data) : String :=
  let digits := Nat.toDigits 16 f.toNat
  "#f64:0x" ++ String.ofList (List.replicate (16 - digits.length) '0' ++ digits)

/-- The textual form of a command (R63). A raw immediate is written in decimal, a MULI scalar in signed decimal and
a real in the exact form; the text of R63 admits other spellings of the same immediates. -/
def Instr.asm : Instr → String
  | .fromraw rd d => "FROMRAW " ++ TReg.asm rd ++ ", #" ++ toString d.toNat
  | .fromreal rd f => "FROMREAL " ++ TReg.asm rd ++ ", " ++ f64Asm f
  | .toraw a => "TORAW " ++ TReg.asm a
  | .toreal a => "TOREAL " ++ TReg.asm a
  | .sign a => "SIGN " ++ TReg.asm a
  | .add rd a b => "ADD " ++ TReg.asm rd ++ ", " ++ TReg.asm a ++ ", " ++ TReg.asm b
  | .sub rd a b => "SUB " ++ TReg.asm rd ++ ", " ++ TReg.asm a ++ ", " ++ TReg.asm b
  | .neg rd a => "NEG " ++ TReg.asm rd ++ ", " ++ TReg.asm a
  | .muli rd a k => "MULI " ++ TReg.asm rd ++ ", " ++ TReg.asm a ++ ", #" ++ toString k.toInt
  | .mulr rd a k => "MULR " ++ TReg.asm rd ++ ", " ++ TReg.asm a ++ ", " ++ f64Asm k
  | .uniform rd => "UNIFORM " ++ TReg.asm rd
  | .normal rd sd => "NORMAL " ++ TReg.asm rd ++ ", " ++ f64Asm sd

/-- The `match` and `mask` columns of R57, in the table's order: a word belongs to a row when
`CMD & mask = match`. -/
def opcodeRows : List (CmdWord × CmdWord) :=
  [(0x1000, 0xF1FF), (0x2000, 0xF1FF), (0x3000, 0xFE3F), (0x4000, 0xFE3F), (0x5000, 0xFE3F), (0x6000, 0xF007),
   (0x7000, 0xF007), (0x8000, 0xF03F), (0x9000, 0xF03F), (0xA000, 0xF03F), (0xB000, 0xF1FF), (0xC000, 0xF1FF)]

/-- The `match` and `mask` of a command's row (R57). -/
def Instr.row : Instr → CmdWord × CmdWord
  | .fromraw _ _ => (0x1000, 0xF1FF)
  | .fromreal _ _ => (0x2000, 0xF1FF)
  | .toraw _ => (0x3000, 0xFE3F)
  | .toreal _ => (0x4000, 0xFE3F)
  | .sign _ => (0x5000, 0xFE3F)
  | .add _ _ _ => (0x6000, 0xF007)
  | .sub _ _ _ => (0x7000, 0xF007)
  | .neg _ _ => (0x8000, 0xF03F)
  | .muli _ _ _ => (0x9000, 0xF03F)
  | .mulr _ _ _ => (0xA000, 0xF03F)
  | .uniform _ => (0xB000, 0xF1FF)
  | .normal _ _ => (0xC000, 0xF1FF)

/-- The 2-bit code of a status on the response port (R53). -/
def Status.code : Status → BitVec 2
  | .ok => 0b00
  | .invalidInput => 0b01
  | .invalidParam => 0b10
  | .illegalCmd => 0b11

/-- The 1-bit `RNG_KIND` on the random-source port (R55). -/
def DrawKind.code : DrawKind → BitVec 1
  | .bits => 0
  | .gauss => 1

/-- The command transfer an instruction of `nbits` bits `w` stands for: `CMD` is bits 15..0 and `DATA` bits 79..16,
and every bit at or above `nbits` is 0. The FTU has no byte order (R36); the placing of `DATA` above `CMD` is a
DESIGN CHOICE, safe: nothing but the two fixed functions that call it uses it (log 5). -/
def commandOfBits (nbits w : Nat) : Command :=
  ⟨BitVec.ofNat 16 (w % 2 ^ nbits), BitVec.ofNat 64 (w % 2 ^ nbits / 2 ^ 16)⟩

/-- The instruction the decoder reads from `nbits` bits numbered as the opcode table numbers them. -/
def decodeTableWord (nbits w : Nat) : Option Instr :=
  match decode (commandOfBits nbits w) with
  | .ok i => some i
  | .error _ => none

end Sys2Proof
end

