-- ==== Sys2Proof/Machine/F64.lean ====
section
/-! DEFINITION. The 64-bit floating-point format (R12), the primitive `FloorScale` (R13), the test `SigmaValid`
(R109) and the encoding of `n / 2^W` (R79). -/

namespace Sys2Proof.Machine

/-- `fsign(b) = b[63]` (R12). -/
def fsign (b : Data) : Bool := b.getLsbD 63

/-- `fexp(b) = uint(b[62:52])` (R12). -/
def fexp (b : Data) : Nat := b.toNat / 2 ^ 52 % 2 ^ 11

/-- `fman(b) = uint(b[51:0])` (R12). -/
def fman (b : Data) : Nat := b.toNat % 2 ^ 52

/-- `ffinite(b)`: zero, subnormal or normal, that is neither an infinity nor a NaN (R12). -/
def ffinite (b : Data) : Bool := fexp b != 2047

/-- The real value of a finite `b`, by the classes of R12; an infinity and a NaN have none. -/
def fval (b : Data) : Option ℚ :=
  let sgn : ℚ := if fsign b then -1 else 1
  if fexp b = 2047 then none
  else if fexp b = 0 then some (sgn * fman b * (2 : ℚ) ^ (-1074 : ℤ))
  else some (sgn * (2 ^ 52 + fman b : ℕ) * (2 : ℚ) ^ ((fexp b : ℤ) - 1075))

/-- The triple `(s, M, E)` of `fdec` (R12). -/
structure FDec where
  s : Bool
  m : Nat
  e : Int
deriving DecidableEq, Repr

/-- `fdec(b)` for a finite `b` (R12): `fval(b) = (-1)^s * M * 2^E`. -/
def fdec (b : Data) : FDec :=
  if fexp b = 0 then ⟨fsign b, fman b, -1074⟩ else ⟨fsign b, 2 ^ 52 + fman b, (fexp b : ℤ) - 1075⟩

/-- `trunc_W(x) = x mod 2^W`, as a `W`-bit vector (R10). -/
def trunc (w : Nat) (x : Int) : BitVec w := BitVec.ofInt w x

/-- `FloorScale(s, P, E)` (R13), on integers alone: `floor((-1)^s * P * 2^E) mod 2^W`. -/
def floorScale (w : Nat) (s : Bool) (P : Nat) (E : Int) : BitVec w :=
  if 0 ≤ E then
    let n : Int := P * 2 ^ E.toNat
    trunc w (if s then -n else n)
  else
    let q : Nat := P / 2 ^ (-E).toNat
    let r : Nat := P % 2 ^ (-E).toNat
    trunc w (if s then -(q : Int) - (if r ≠ 0 then 1 else 0) else q)

/-- The torus value of a finite real: `floor(fval(f) * 2^W) mod 2^W` (R76). -/
def fromReal (w : Nat) (f : Data) : BitVec w :=
  let d := fdec f
  floorScale w d.s d.m (d.e + w)

/-- `SigmaValid(sd)`, in bits (R109): finite, and its sign bit clear or its magnitude zero. -/
def sigmaValid (sd : Data) : Bool :=
  fexp sd != 2047 && (!fsign sd || (fexp sd == 0 && fman sd == 0))

/-- The 64-bit floating-point encoding of `n / 2^W`, exact for `n < 2^W` (R79). -/
def toReal (w n : Nat) : Data :=
  if n = 0 then 0
  else
    let p := Nat.log2 n
    let e := 1023 + p - w
    let m := n * 2 ^ (52 - p) % 2 ^ 52
    BitVec.ofNat 64 (e * 2 ^ 52 + m)

end Sys2Proof.Machine
end

