-- ==== Sys2Proof/Machine/State.lean ====
section
/-! DEFINITION. Everything the spec gives one FTU (R20, R28), the inputs at its ports (R50), and the record of what
crossed them; the state right after reset (R29, R140). -/

namespace Sys2Proof.Machine

/-- Reasons for the machine to stop with a fault. There are none, which is safe: every error of the FTU is the status
of a response, after which the unit is ready for the next command (R115, R119, R122). -/
inductive Fault
deriving DecidableEq, Repr

/-- Reasons to refuse a step. -/
inductive Refusal where
  /-- Raised by `exec` for a command that has no meaning yet, under the opcode table's mnemonic; no command is left in
  that state. Safe: nothing is claimed of such a command. -/
  | notModelled (mnemonic : String)
deriving DecidableEq, Repr

/-- One FTU and its ports. -/
structure State where
  /-- The build parameters of the instance (R6): constant. -/
  cfg : Params
  /-- `T0` to `T7`, each `W` bits wide (R20); every pattern is a legal content (R22). -/
  regs : Vector (BitVec cfg.w) 8
  /-- The command in execution, its `CMD` and `DATA` held from the command transfer to the response transfer
  (R28, R145). -/
  current : Option Command
  /-- The draw request the FTU offers and the backend has not taken yet (R50, R106). -/
  drawOffered : Option DrawRequest
  /-- The pending draw: the one request that has been transferred on the random-source port and is not answered yet
  (R28, R106). -/
  drawPending : Option DrawRequest
  /-- The response the FTU offers and the host has not taken yet (R50, R145). -/
  offered : Option Response
  /-- The level of `RST`, driven by the host (R140); `true` is asserted. -/
  rst : Bool
  /-- The host takes an offered response (R50; duty 3 of R143). -/
  rspReady : Bool
  /-- The backend takes an offered draw request (R50). -/
  rngReady : Bool
  /-- The commands the host offers on the command channel, in order (R50). -/
  cmdIn : List Command
  /-- The answers of the random backend to the requests to come, in order (R106): free inputs under no law. -/
  drawIn : List Data
  /-- The responses transferred so far, oldest first (R148). The model's own record. -/
  responses : List Response
  /-- The draw requests transferred so far, oldest first (R50, R55). The model's own record. -/
  drawRequests : List DrawRequest
  /-- How often reset has acted. The model's own counter, for `Config.torusAfterReset`. -/
  resets : Nat
deriving DecidableEq, Repr

/-- What register `T[i]` holds after the reset numbered `count`, when it held `old` (R29, R141): a free value of
`W` bits. -/
def torusAfterReset (p : Params) (count : Nat) (i : TReg) (old : BitVec 32) : BitVec p.w :=
  (Config.torusAfterReset count i.val old).setWidth p.w

/-- An instance with the parameters `p` right after its first reset: idle, nothing outstanding, the registers at
contents nothing is known of (R29, R140), and nothing offered at its ports yet. -/
def State.resetWith (p : Params) : State where
  cfg := p
  regs := Vector.ofFn fun i => torusAfterReset p 0 i 0
  current := none
  drawOffered := none
  drawPending := none
  offered := none
  rst := false
  rspReady := true
  rngReady := true
  cmdIn := []
  drawIn := []
  responses := []
  drawRequests := []
  resets := 1

/-- The machine right after reset, in the instance `Params.standard` (log 2). -/
def State.reset : State := State.resetWith Params.standard

end Sys2Proof.Machine
end

