-- ==== Sys2Proof/Machine/Operands.lean ====
section
/-! DEFINITION. Register and immediate operands (R14, R65) and the `W`-bit results of the arithmetic commands
(R85 to R90, R100). -/

namespace Sys2Proof.Machine

/-- `T[i]` (R14, R20). -/
def State.torus (s : State) (i : TReg) : BitVec s.cfg.w := s.regs[i.val]

/-- `uint(T[i])` (R10): the `inner` of register `i`. -/
def State.uint (s : State) (i : TReg) : Nat := (s.torus i).toNat

/-- The raw operand of FROMRAW, `DATA[W-1:0]` (R65); also the bits of a draw that UNIFORM keeps (R107). -/
def rawOperand (w : Nat) (d : Data) : BitVec w := d.setWidth w

/-- `zext_64` of a torus value, as a response carries it (R54). -/
def zext64 {w : Nat} (v : BitVec w) : Data := v.setWidth 64

/-- `(a + b) mod 2^W` (R85). -/
def torusAdd {w : Nat} (a b : BitVec w) : BitVec w := trunc w (a.toNat + b.toNat)

/-- `(a - b) mod 2^W` (R86). -/
def torusSub {w : Nat} (a b : BitVec w) : BitVec w := trunc w (a.toNat - b.toNat)

/-- `(2^W - a) mod 2^W` (R87). -/
def torusNeg {w : Nat} (a : BitVec w) : BitVec w := trunc w (2 ^ w - a.toNat)

/-- `(a * k) mod 2^W`, `k = sint_32(DATA[31:0])` (R88). -/
def torusMulInt {w : Nat} (a : BitVec w) (k : BitVec 32) : BitVec w := trunc w (a.toNat * k.toInt)

/-- `floor(a * fval(k)) mod 2^W` for a finite `k` (R89): the product with the significand is exact. -/
def torusMulReal {w : Nat} (a : BitVec w) (k : Data) : BitVec w :=
  let d := fdec k
  floorScale w d.s (a.toNat * d.m) d.e

/-- The response data of SIGN (R100): +1 when `inner < 2^(W-1)`, else -1, in 64-bit two's complement. -/
def signData {w : Nat} (a : BitVec w) : Data := if a.toNat < 2 ^ (w - 1) then 1 else 0xFFFFFFFFFFFFFFFF

end Sys2Proof.Machine
end

