-- ==== Sys2Proof/Machine/Ops.lean ====
section
/-! DEFINITION. The named operations over the state: register write, response, error, draw, response transfer, reset,
and what the host and the backend can do between two steps. -/

namespace Sys2Proof.Machine

/-- `T[i] <- v` (R14). -/
def State.writeTorus (s : State) (i : TReg) (v : BitVec s.cfg.w) : State := { s with regs := s.regs.set i v }

/-- `respond(st, d)` (R14): the FTU offers the response of the command in execution. The transfer itself is
`deliver`. -/
def respond (st : Status) (d : Data) (s : State) : State := { s with offered := some ⟨st, d⟩ }

/-- `raise <Error>` (R14, R119): the one way a command ends in an error. It writes no register, answers with the error
code and data 0, and saves nothing, since there is no trap (R115, R122) and so nothing to return from (R123). -/
def raise (e : Status) (s : State) : State := respond e 0 s

/-- A command that writes a register ends: `T[RD] <- v`, then `respond(OK, zext_64(v))` (R21, R54). -/
def finish (s : State) (rd : TReg) (v : BitVec s.cfg.w) : State := respond .ok (zext64 v) (s.writeTorus rd v)

/-- The draw request of a sampling command (R50, R106): the FTU offers it, and it is transferred when the backend takes
it (the level `rngReady`, log 17). Until then it stays offered. A command whose request has been transferred sends no second one (R46: exactly one
draw). -/
def requestDraw (k : DrawKind) (sigma : Data) (s : State) : State :=
  match s.drawPending with
  | some _ => s
  | none =>
    if s.rngReady then
      { s with drawOffered := none, drawPending := some ⟨k, sigma⟩, drawRequests := s.drawRequests ++ [⟨k, sigma⟩] }
    else { s with drawOffered := some ⟨k, sigma⟩ }

/-- The draw response (R106): the backend's next answer is consumed, `xs` are the ones after it, and no request is
offered or outstanding any more. -/
def consumeDraw (xs : List Data) (s : State) : State :=
  { s with drawIn := xs, drawOffered := none, drawPending := none }

/-- `RngDraw(kind, sigma)` (R106), and the rest of the command as a function of the draw. Once the request has been
transferred, the next answer of the backend is consumed; while the backend has not taken the request, or has not
answered it, the command waits, and nothing gives up the wait (R146). -/
def rngDraw (k : DrawKind) (sigma : Data) (s : State) (rest : State → Data → State) : State :=
  let s := requestDraw k sigma s
  match s.drawPending, s.drawIn with
  | some _, x :: xs => rest (consumeDraw xs s) x
  | some _, [] => s
  | none, _ => s

/-- FROMREAL's encoding of a real `f` into `T[RD]`, with its error (R76); NORMAL applies it to the draw (R108). -/
def encodeReal (rd : TReg) (s : State) (f : Data) : State :=
  if ffinite f then finish s rd (fromReal s.cfg.w f) else raise .invalidInput s

/-- The response transfer (R50, R145): when the host takes the offered response, it joins the responses of the run and
the FTU is idle again; until then the FTU holds it. -/
def deliver (s : State) : State :=
  match s.offered with
  | none => s
  | some r =>
    if s.rspReady then { s with offered := none, current := none, responses := s.responses ++ [r] } else s

/-- The command transfer (R50, R145): the FTU takes the command `c` that the host offers first, and `rest` stays
offered. -/
def accept (c : Command) (rest : List Command) (s : State) : State := { s with cmdIn := rest, current := some c }

/-- `RST` acts (R29, R140 to R142): the command in execution and its request, offered or outstanding, are abandoned,
no response is offered, the registers hold unspecified values. With a request outstanding, the next answer in the list
is the one to that request, and it is discarded, so that no later command gets it (R142, R143 duty 4; log 10). DESIGN
CHOICE (log 18): a command the host has offered and the FTU has not accepted stays offered, and is taken after release;
the spec does not say what becomes of it. -/
def applyReset (s : State) : State :=
  { s with
    regs := Vector.ofFn fun i => torusAfterReset s.cfg s.resets i ((s.torus i).setWidth 32)
    current := none
    drawOffered := none
    drawPending := none
    offered := none
    drawIn := if s.drawPending.isSome then s.drawIn.drop 1 else s.drawIn
    resets := s.resets + 1 }

/-- The host offers one more command (R50). What is offered is never withdrawn (log 18). -/
def hostSend (c : Command) (s : State) : State := { s with cmdIn := s.cmdIn ++ [c] }

/-- The host begins or ceases to take responses (R50). -/
def hostSetReady (b : Bool) (s : State) : State := { s with rspReady := b }

/-- The host asserts or releases `RST` (R140). -/
def hostSetReset (b : Bool) (s : State) : State := { s with rst := b }

/-- The backend begins or ceases to take draw requests (R50). -/
def backendSetReady (b : Bool) (s : State) : State := { s with rngReady := b }

/-- The backend gives one more answer, to the outstanding request or to a later one (R106). The response to a request
that a reset has abandoned is never one of these: the platform discards it (R142, R143 duty 4). -/
def backendAnswer (x : Data) (s : State) : State := { s with drawIn := s.drawIn ++ [x] }

end Sys2Proof.Machine
end

