-- ==== Sys2Proof/Machine/Arith.lean ====
section
/-! DEFINITION. The arithmetic commands (41_arithmetic.md). -/

namespace Sys2Proof.Machine

/-- ADD (R85). -/
def execAdd (rd rs1 rs2 : TReg) (s : State) : Host.Outcome State Fault Refusal :=
  .next (finish s rd (torusAdd (s.torus rs1) (s.torus rs2)))

/-- SUB (R86). -/
def execSub (rd rs1 rs2 : TReg) (s : State) : Host.Outcome State Fault Refusal :=
  .next (finish s rd (torusSub (s.torus rs1) (s.torus rs2)))

/-- NEG (R87). -/
def execNeg (rd rs1 : TReg) (s : State) : Host.Outcome State Fault Refusal :=
  .next (finish s rd (torusNeg (s.torus rs1)))

/-- MULI (R88). -/
def execMuli (rd rs1 : TReg) (k : BitVec 32) (s : State) : Host.Outcome State Fault Refusal :=
  .next (finish s rd (torusMulInt (s.torus rs1) k))

/-- MULR (R89): the finiteness of `k` is tested first, whatever `T[RS1]` is. -/
def execMulr (rd rs1 : TReg) (k : Data) (s : State) : Host.Outcome State Fault Refusal :=
  .next (if ffinite k then finish s rd (torusMulReal (s.torus rs1) k) else raise .invalidInput s)

end Sys2Proof.Machine
end

