-- ==== Sys2Proof/Machine/Construct.lean ====
section
/-! DEFINITION. The construction and conversion commands (40_construct_convert.md). -/

namespace Sys2Proof.Machine

/-- FROMRAW (R75): `T[RD] <- DATA[W-1:0]`. -/
def execFromraw (rd : TReg) (data : Data) (s : State) : Host.Outcome State Fault Refusal :=
  .next (finish s rd (rawOperand s.cfg.w data))

/-- FROMREAL (R76): `INVALID_INPUT` when `f` is not finite, else `T[RD] <- floor(fval(f) * 2^W) mod 2^W`. -/
def execFromreal (rd : TReg) (f : Data) (s : State) : Host.Outcome State Fault Refusal :=
  .next (encodeReal rd s f)

/-- TORAW (R78): responds `zext_64(T[RS1])`. -/
def execToraw (rs1 : TReg) (s : State) : Host.Outcome State Fault Refusal :=
  .next (respond .ok (zext64 (s.torus rs1)) s)

/-- TOREAL (R79): responds the 64-bit floating-point value `uint(T[RS1]) / 2^W`. -/
def execToreal (rs1 : TReg) (s : State) : Host.Outcome State Fault Refusal :=
  .next (respond .ok (toReal s.cfg.w (s.uint rs1)) s)

end Sys2Proof.Machine
end

