-- ==== Sys2Proof/Machine/Sampling.lean ====
section
/-! DEFINITION. The sampling commands (43_sampling.md). A command that waits for its draw runs its meaning again, on
the operands held from its transfer, when the machine steps next (R143 duty 5, R146; log 13). -/

namespace Sys2Proof.Machine

/-- UNIFORM (R107): illegal without the random-source port (R58 step 2, R60, R105); else one BITS draw, whose low `W`
bits go to `T[RD]`. -/
def execUniform (rd : TReg) (s : State) : Host.Outcome State Fault Refusal :=
  .next
    (if s.cfg.hasRng then rngDraw .bits 0 s fun t x => finish t rd (rawOperand t.cfg.w x)
    else raise .illegalCmd s)

/-- NORMAL (R108): illegal without the random-source port (R58 step 2, R60, R105); `INVALID_PARAM` without a draw when
the standard deviation is not valid (R117); else one GAUSS draw, encoded as FROMREAL encodes a real, with FROMREAL's
error. -/
def execNormal (rd : TReg) (sigma : Data) (s : State) : Host.Outcome State Fault Refusal :=
  .next
    (if s.cfg.hasRng then
      if sigmaValid sigma then rngDraw .gauss sigma s (encodeReal rd) else raise .invalidParam s
    else raise .illegalCmd s)

end Sys2Proof.Machine
end

