-- ==== Sys2Proof/Machine/Sign.lean ====
section
/-! DEFINITION. The sign predicate command (42_sign.md). -/

namespace Sys2Proof.Machine

/-- SIGN (R100): responds +1 or -1 and writes nothing. -/
def execSign (rs1 : TReg) (s : State) : Host.Outcome State Fault Refusal :=
  .next (respond .ok (signData (s.torus rs1)) s)

end Sys2Proof.Machine
end

