-- ==== Sys2Proof/Machine/Dispatch.lean ====
section
/-! DEFINITION. One arm per command (R56). -/

namespace Sys2Proof.Machine

def exec (i : Instr) (s : State) : Host.Outcome State Fault Refusal :=
  match i with
  | .fromraw rd data => Sys2Proof.Machine.execFromraw rd data s
  | .fromreal rd f => Sys2Proof.Machine.execFromreal rd f s
  | .toraw rs1 => Sys2Proof.Machine.execToraw rs1 s
  | .toreal rs1 => Sys2Proof.Machine.execToreal rs1 s
  | .sign rs1 => Sys2Proof.Machine.execSign rs1 s
  | .add rd rs1 rs2 => Sys2Proof.Machine.execAdd rd rs1 rs2 s
  | .sub rd rs1 rs2 => Sys2Proof.Machine.execSub rd rs1 rs2 s
  | .neg rd rs1 => Sys2Proof.Machine.execNeg rd rs1 s
  | .muli rd rs1 k => Sys2Proof.Machine.execMuli rd rs1 k s
  | .mulr rd rs1 k => Sys2Proof.Machine.execMulr rd rs1 k s
  | .uniform rd => Sys2Proof.Machine.execUniform rd s
  | .normal rd sigma => Sys2Proof.Machine.execNormal rd sigma s

end Sys2Proof.Machine
end

