-- ==== Sys2Proof/Machine/Cycle.lean ====
section
/-! DEFINITION. One step of the FTU (R15, R145): reset, the response transfer, the command transfer and the execution
of the command. -/

namespace Sys2Proof.Machine

/-- Run the held command `c` (R58): an illegal word ends with `ILLEGAL_CMD`, a legal one has its meaning; then the
response, if there is one, is transferred. -/
def runCommand (c : Command) (s : State) : Host.Outcome State Fault Refusal :=
  match decode c with
  | .error _ => .next (deliver (raise .illegalCmd s))
  | .ok i =>
    match exec i s with
    | .next t => .next (deliver t)
    | .fault r => .fault r
    | .refused r => .refused r

/-- One step. While `RST` is asserted it acts (R140). An offered response is transferred before anything else (R145).
A command in execution goes on: it can only be waiting for its draw, or for the backend to take its request (R50,
R146). An idle FTU takes the next command the
host offers, and with none it stays idle (R130). -/
def cycle (s : State) : Host.Outcome State Fault Refusal :=
  if s.rst then .next (applyReset s)
  else
    match s.offered with
    | some _ => .next (deliver s)
    | none =>
      match s.current with
      | some c => runCommand c s
      | none =>
        match s.cmdIn with
        | [] => .next s
        | c :: rest => runCommand c (accept c rest s)

/-- `s` with an idle FTU whose host offers `c` next and before all else it offers. -/
def offerNext (c : Command) (s : State) : State :=
  { s with
    rst := false
    offered := none
    drawOffered := none
    drawPending := none
    current := none
    cmdIn := c :: s.cmdIn }

end Sys2Proof.Machine
end

