-- ==== Sys2Proof/Machine/Step.lean ====
section
/-! DEFINITION. The step, and the placing of one command where the next step takes it. -/

namespace Sys2Proof.Machine

/-- One step of the FTU (R15). -/
def step (s : State) : Host.Outcome State Fault Refusal := cycle s

/-- `s` with the command that `nbits` bits `w` stand for offered next to an idle FTU (log 4). -/
def State.withFetchWord (s : State) (nbits w : Nat) : State := offerNext (commandOfBits nbits w) s

end Sys2Proof.Machine
end

