-- ==== Sys2Proof/Safety.lean ====
section
/-! DEFINITION. The terms statements are made in: what a command leaves unchanged, when the FTU is idle, which
combinations of its hidden state are legal, which states a run can reach. -/

namespace Sys2Proof

/-- UNIFORM and NORMAL, the two commands that may draw (R106). -/
def Instr.samples : Instr → Bool
  | .uniform _ | .normal _ _ => true
  | .fromraw _ _ | .fromreal _ _ | .toraw _ | .toreal _ | .sign _ | .add _ _ _ | .sub _ _ _ | .neg _ _
  | .muli _ _ _ | .mulr _ _ _ => false

/-- The registers a command reads (R21). -/
def Instr.sources : Instr → List TReg
  | .fromraw _ _ | .fromreal _ _ | .uniform _ | .normal _ _ => []
  | .toraw a | .toreal a | .sign a | .neg _ a | .muli _ a _ | .mulr _ a _ => [a]
  | .add _ a b | .sub _ a b => [a, b]

/-- The register a command writes when its response is OK (R21). -/
def Instr.dest : Instr → Option TReg
  | .toraw _ | .toreal _ | .sign _ => none
  | .fromraw rd _ | .fromreal rd _ | .add rd _ _ | .sub rd _ _ | .neg rd _ | .muli rd _ _ | .mulr rd _ _
  | .uniform rd | .normal rd _ => some rd

/-- The words R118 calls illegal in an instance: a reserved `OP` (R59, R60), a non-zero `Z`, or a non-zero register
field that the command does not use (R51, R61). -/
def IllegalWord (p : Params) (w : CmdWord) : Prop :=
  w >>> 12 ∈ ([0x0, 0xD, 0xE, 0xF] : List CmdWord) ∨
  (p.hasRng = false ∧ w >>> 12 ∈ ([0xB, 0xC] : List CmdWord)) ∨
  w &&& 0x0007 ≠ 0 ∨
  (w >>> 12 ∈ ([0x1, 0x2, 0xB, 0xC] : List CmdWord) ∧ w &&& 0x01F8 ≠ 0) ∨
  (w >>> 12 ∈ ([0x3, 0x4, 0x5] : List CmdWord) ∧ w &&& 0x0E38 ≠ 0) ∨
  (w >>> 12 ∈ ([0x8, 0x9, 0xA] : List CmdWord) ∧ w &&& 0x0038 ≠ 0)

end Sys2Proof

namespace Sys2Proof.Machine

/-- No command is in execution, no response and no draw request is offered, no draw is outstanding (R28, R140). -/
def State.Idle (s : State) : Prop :=
  s.current = none ∧ s.offered = none ∧ s.drawOffered = none ∧ s.drawPending = none

/-- A run has ended: the FTU is idle and nothing is offered to it (R148). After a run of which every command was
answered, its last response has then been transferred. DESIGN CHOICE (log 16): a run whose last command a reset
abandoned (R142) counts as ended too, although no response is ever transferred for that command; R148 does not speak
of it. -/
def State.Ended (s : State) : Prop := s.Idle ∧ s.cmdIn = []

/-- The outcome of a run: its responses in order, and the `inner` of `T0` to `T7` (R148). -/
def State.outcome (s : State) : List Response × List Nat := (s.responses, s.regs.toList.map BitVec.toNat)

/-- The draw request a command makes in an instance with a random-source port (R55, R107, R108). -/
def drawOf : Instr → Option DrawRequest
  | .uniform _ => some ⟨.bits, 0⟩
  | .normal _ sd => if sigmaValid sd then some ⟨.gauss, sd⟩ else none
  | .fromraw _ _ | .fromreal _ _ | .toraw _ | .toreal _ | .sign _ | .add _ _ _ | .sub _ _ _ | .neg _ _
  | .muli _ _ _ | .mulr _ _ _ => none

/-- The legal combinations of the hidden state (R28): idle; a command whose response is offered; a sampling command
that waits for the backend to take its one draw request, or to answer it, in an instance that has a random-source port
(R46, R50, R105, R146). -/
def Coherent (s : State) : Prop :=
  match s.current, s.offered, s.drawOffered, s.drawPending with
  | none, none, none, none => True
  | some _, some _, none, none => True
  | some c, none, some req, none => s.cfg.hasRng = true ∧ ∃ i, decode c = .ok i ∧ drawOf i = some req
  | some c, none, none, some req => s.cfg.hasRng = true ∧ ∃ i, decode c = .ok i ∧ drawOf i = some req
  | _, _, _, _ => False

/-- What holds of the unit built with `p` in any run: legal hidden state, the parameters it was built with, and no
draw request without a random-source port (R6, R28, R105). -/
def InstanceInv (p : Params) (s : State) : Prop :=
  Coherent s ∧ s.cfg = p ∧
    (p.hasRng = false → s.drawRequests = [] ∧ s.drawOffered = none ∧ s.drawPending = none)

/-- The command a step without `RST` runs: none while a response is offered, else the one in execution, else the first
one the host offers (R145). -/
def State.commandToRun (s : State) : Option Command :=
  match s.offered, s.current with
  | some _, _ => none
  | none, some c => some c
  | none, none => s.cmdIn.head?

/-- `s` and `t` agree on everything but the registers and the offered response. -/
def SameButRegsAndOffer (s t : State) : Prop :=
  t.cfg = s.cfg ∧ t.current = s.current ∧ t.drawOffered = s.drawOffered ∧ t.drawPending = s.drawPending ∧
  t.rst = s.rst ∧ t.rspReady = s.rspReady ∧ t.rngReady = s.rngReady ∧ t.cmdIn = s.cmdIn ∧ t.drawIn = s.drawIn ∧
  t.responses = s.responses ∧ t.drawRequests = s.drawRequests ∧
  t.resets = s.resets

/-- From `s` to `t`, `T[rd]` became the `W`-bit value `n`, the response `(OK, zext_64(n))` was offered, and nothing
else changed: every other register, and all that is not a register. -/
def WritesOnly (s t : State) (rd : TReg) (n : Nat) : Prop :=
  t.uint rd = n ∧ n < 2 ^ s.cfg.w ∧ (∀ j, j ≠ rd → t.uint j = s.uint j) ∧
  t.offered = some ⟨.ok, BitVec.ofNat 64 n⟩ ∧ SameButRegsAndOffer s t

/-- `s` once the request `req` has been transferred and the backend's answer to it has been consumed,
with `xs` the answers that follow. -/
def afterDraw (s : State) (req : DrawRequest) (xs : List Data) : State :=
  { s with drawOffered := none, drawPending := none, drawRequests := s.drawRequests ++ [req], drawIn := xs }

/-- `u` is `t` once the response channel has had its turn: an offered response that the host takes joins the responses
of the run and leaves the FTU idle; otherwise nothing happens (R50, R145). -/
def Delivered (t u : State) : Prop :=
  (∀ r, t.offered = some r → t.rspReady = true →
    u = { t with offered := none, current := none, responses := t.responses ++ [r] }) ∧
  (t.offered = none ∨ t.rspReady = false → u = t)

/-- The same unit, built with or without a random-source port. -/
def State.withRng (s : State) (b : Bool) : State := { s with cfg := { s.cfg with hasRng := b } }

/-- The states a run from reset can reach: the FTU steps, and between two steps the host and the backend act
(R15, R50, R140). -/
inductive Reachable (p : Params) : State → Prop
  | reset : Reachable p (State.resetWith p)
  | step {s t : State} : Reachable p s → Sys2Proof.Machine.step s = .next t → Reachable p t
  | send {s : State} (c : Command) : Reachable p s → Reachable p (hostSend c s)
  | ready {s : State} (b : Bool) : Reachable p s → Reachable p (hostSetReady b s)
  | rst {s : State} (b : Bool) : Reachable p s → Reachable p (hostSetReset b s)
  | take {s : State} (b : Bool) : Reachable p s → Reachable p (backendSetReady b s)
  | answer {s : State} (x : Data) : Reachable p s → Reachable p (backendAnswer x s)

end Sys2Proof.Machine
end

