-- ==== Sys2Proof/Certificates/Slice0/Obligations.lean ====
section
/-! DEFINITION. The statements, for the provers. -/

open Sys2Proof Sys2Proof.Machine

/-! ## Encoding -/

/-- Decoding the transfer the assembler writes for a command gives that command back, for every command and every
operand (30_encoding.md sections 3 and 7, R57, R63). -/
def Obligations.DecodeInvertsEncode : Prop := ∀ i : Instr, decode (encode i) = .ok i

/-- "So each legal command has exactly one encoding" (R51): a legal word is the word the encoder writes for what it
decodes to. -/
def Obligations.LegalWordIsTheEncodedWord : Prop :=
  ∀ (c : Command) (i : Instr), decode c = .ok i → c.cmd = (encode i).cmd

/-- The decoder accepts a word exactly when a `match`/`mask` row of R57 selects it, whatever `DATA` is, and then gives
a command of that row (R58 step 1). -/
def Obligations.DecoderAcceptsExactlyTheTableRows : Prop :=
  ∀ (w : CmdWord) (data : Data),
    ((∃ i, decode ⟨w, data⟩ = .ok i) ↔ ∃ row ∈ opcodeRows, w &&& row.2 = row.1) ∧
    ∀ i, decode ⟨w, data⟩ = .ok i → w &&& i.row.2 = i.row.1

/-- Words of 95_test_vectors.md section 2.9 decode as it says. -/
def Obligations.WrittenWordsDecode : Prop :=
  decode ⟨0x6650, 0⟩ = .ok (.add 3 1 2) ∧ decode ⟨0x7AE0, 0⟩ = .ok (.sub 5 3 4) ∧
  decode ⟨0x31C0, 0⟩ = .ok (.toraw 7) ∧ decode ⟨0x5100, 0⟩ = .ok (.sign 4) ∧
  decode ⟨0x9AC0, 0xFFFFFFFD⟩ = .ok (.muli 5 3 0xFFFFFFFD) ∧ decode ⟨0xCE00, 0⟩ = .ok (.normal 7 0) ∧
  decode ⟨0x3600, 0⟩ = .error .nonzeroUnusedField ∧ decode ⟨0x6201, 0⟩ = .error .nonzeroZ ∧
  decode ⟨0xE248, 0⟩ = .error .reservedOp

/-- The bits of `DATA` that a command does not read have no effect (R52, R65): two words that agree on `CMD`, and on
`DATA[W-1:0]` for FROMRAW, `DATA[31:0]` for MULI, all of `DATA` for the commands with a real operand, run alike. -/
def Obligations.UnreadDataBitsAreIgnored : Prop :=
  (∀ (w : CmdWord) (d d' : Data), w >>> 12 ∈ ([0x3, 0x4, 0x5, 0x6, 0x7, 0x8, 0xB] : List CmdWord) →
    decode ⟨w, d⟩ = decode ⟨w, d'⟩) ∧
  (∀ (w : CmdWord) (d d' : Data), w >>> 12 = 0x9 → d.toNat % 2 ^ 32 = d'.toNat % 2 ^ 32 →
    decode ⟨w, d⟩ = decode ⟨w, d'⟩) ∧
  (∀ (s : State) (rd : TReg) (d d' : Data), d.toNat % 2 ^ s.cfg.w = d'.toNat % 2 ^ s.cfg.w →
    exec (.fromraw rd d) s = exec (.fromraw rd d') s)

/-! ## The twelve commands -/

/-- FROMRAW (R75): its encoding, and `T[RD]` becomes `DATA[W-1:0]`. -/
def Obligations.FromrawStoresTheRawValue : Prop :=
  ∀ rd : TReg,
    (∀ data, decode ⟨BitVec.ofNat 16 (0x1000 + rd.val * 512), data⟩ = .ok (.fromraw rd data)) ∧
    ∀ (data : Data) (s : State), ∃ t, exec (.fromraw rd data) s = .next t ∧
      WritesOnly s t rd (data.toNat % 2 ^ s.cfg.w)

/-- FROMREAL (R76): its encoding; for a finite operand of value `x`, `T[RD]` becomes `floor((x - floor(x)) * 2^W)`,
computed on exact rationals; an infinity or a NaN is answered `INVALID_INPUT` and changes nothing. -/
def Obligations.FromrealReducesScalesAndFloors : Prop :=
  ∀ rd : TReg,
    (∀ data, decode ⟨BitVec.ofNat 16 (0x2000 + rd.val * 512), data⟩ = .ok (.fromreal rd data)) ∧
    ∀ (f : Data) (s : State),
      (∀ x : ℚ, fval f = some x → ∃ t, exec (.fromreal rd f) s = .next t ∧
        WritesOnly s t rd (⌊(x - ⌊x⌋) * 2 ^ s.cfg.w⌋.toNat)) ∧
      (fval f = none → exec (.fromreal rd f) s = .next { s with offered := some ⟨.invalidInput, 0⟩ })

/-- TORAW (R78): its encoding, and the response is `zext_64(T[RS1])`; nothing else changes. -/
def Obligations.TorawReadsTheRawValue : Prop :=
  ∀ a : TReg,
    (∀ data, decode ⟨BitVec.ofNat 16 (0x3000 + a.val * 64), data⟩ = .ok (.toraw a)) ∧
    ∀ s : State, exec (.toraw a) s = .next { s with offered := some ⟨.ok, BitVec.ofNat 64 (s.uint a)⟩ }

/-- TOREAL (R79): its encoding, and the response is a 64-bit floating-point value, of positive sign, whose exact value
is `uint(T[RS1]) / 2^W`, below 1; nothing else changes. -/
def Obligations.TorealIsExact : Prop :=
  ∀ a : TReg,
    (∀ data, decode ⟨BitVec.ofNat 16 (0x4000 + a.val * 64), data⟩ = .ok (.toreal a)) ∧
    ∀ s : State, ∃ r : Data, exec (.toreal a) s = .next { s with offered := some ⟨.ok, r⟩ } ∧
      fval r = some ((s.uint a : ℚ) / 2 ^ s.cfg.w) ∧ fsign r = false ∧ (s.uint a : ℚ) / 2 ^ s.cfg.w < 1

/-- SIGN (R100): its encoding, and the response is +1 when `inner < 2^(W-1)`, else -1; nothing else changes. -/
def Obligations.SignPutsTheMidpointOnTheNegativeSide : Prop :=
  ∀ a : TReg,
    (∀ data, decode ⟨BitVec.ofNat 16 (0x5000 + a.val * 64), data⟩ = .ok (.sign a)) ∧
    ∀ s : State, exec (.sign a) s =
      .next { s with offered := some ⟨.ok, BitVec.ofInt 64 (if s.uint a < 2 ^ (s.cfg.w - 1) then 1 else -1)⟩ }

/-- ADD (R85): its encoding, and `T[RD]` becomes `(a + b) mod 2^W`; the operation is commutative and associative and
has identity 0. -/
def Obligations.AddWrapsModulo : Prop :=
  ∀ rd a b : TReg,
    (∀ data, decode ⟨BitVec.ofNat 16 (0x6000 + rd.val * 512 + a.val * 64 + b.val * 8), data⟩ = .ok (.add rd a b)) ∧
    (∀ s : State, ∃ t, exec (.add rd a b) s = .next t ∧
      WritesOnly s t rd ((s.uint a + s.uint b) % 2 ^ s.cfg.w)) ∧
    ∀ (w : Nat) (x y z : BitVec w), torusAdd x y = torusAdd y x ∧
      torusAdd (torusAdd x y) z = torusAdd x (torusAdd y z) ∧ torusAdd x 0 = x

/-- SUB (R86): its encoding, and `T[RD]` becomes the non-negative remainder of `a - b`; the result is that of NEG on
`b` followed by ADD. -/
def Obligations.SubWrapsModulo : Prop :=
  ∀ rd a b : TReg,
    (∀ data, decode ⟨BitVec.ofNat 16 (0x7000 + rd.val * 512 + a.val * 64 + b.val * 8), data⟩ = .ok (.sub rd a b)) ∧
    (∀ s : State, ∃ t, exec (.sub rd a b) s = .next t ∧
      WritesOnly s t rd (((s.uint a : ℤ) - s.uint b) % 2 ^ s.cfg.w).toNat) ∧
    ∀ (w : Nat) (x y : BitVec w), torusSub x y = torusAdd x (torusNeg y)

/-- NEG (R87): its encoding, and `T[RD]` becomes `(2^W - a) mod 2^W`, the additive inverse. -/
def Obligations.NegIsTheAdditiveInverse : Prop :=
  ∀ rd a : TReg,
    (∀ data, decode ⟨BitVec.ofNat 16 (0x8000 + rd.val * 512 + a.val * 64), data⟩ = .ok (.neg rd a)) ∧
    (∀ s : State, ∃ t, exec (.neg rd a) s = .next t ∧
      WritesOnly s t rd ((2 ^ s.cfg.w - s.uint a) % 2 ^ s.cfg.w)) ∧
    ∀ (w : Nat) (x : BitVec w), torusAdd x (torusNeg x) = 0 ∧ torusNeg (torusNeg x) = x

/-- MULI (R88): its encoding, and `T[RD]` becomes `(a * k) mod 2^W` for the signed `k = sint_32(DATA[31:0])`, which is
the low `W` bits of the product with `DATA[W-1:0]`; it is `k` additions of `a` to 0 for `k >= 0` and `|k|`
subtractions for `k < 0`. -/
def Obligations.MuliMultipliesBySignedInteger : Prop :=
  ∀ rd a : TReg,
    (∀ data, decode ⟨BitVec.ofNat 16 (0x9000 + rd.val * 512 + a.val * 64), data⟩ =
      .ok (.muli rd a (BitVec.ofNat 32 data.toNat))) ∧
    ∀ (k : BitVec 32) (s : State),
      (∃ t, exec (.muli rd a k) s = .next t ∧
        WritesOnly s t rd (((s.uint a : ℤ) * k.toInt) % 2 ^ s.cfg.w).toNat) ∧
      (((s.uint a : ℤ) * k.toInt) % 2 ^ s.cfg.w).toNat = (s.uint a * (k.toNat % 2 ^ s.cfg.w)) % 2 ^ s.cfg.w ∧
      (0 ≤ k.toInt → torusMulInt (s.torus a) k = (fun x => torusAdd x (s.torus a))^[k.toInt.toNat] 0) ∧
      (k.toInt < 0 → torusMulInt (s.torus a) k = (fun x => torusSub x (s.torus a))^[(-k.toInt).toNat] 0)

/-- MULR (R89): its encoding; for a finite scalar of value `x`, `T[RD]` becomes `floor(a * x) mod 2^W`, the product
exact; an infinity or a NaN is answered `INVALID_INPUT` and changes nothing. -/
def Obligations.MulrFloorsTheExactProduct : Prop :=
  ∀ rd a : TReg,
    (∀ data, decode ⟨BitVec.ofNat 16 (0xA000 + rd.val * 512 + a.val * 64), data⟩ = .ok (.mulr rd a data)) ∧
    ∀ (k : Data) (s : State),
      (∀ x : ℚ, fval k = some x → ∃ t, exec (.mulr rd a k) s = .next t ∧
        WritesOnly s t rd (⌊(s.uint a : ℚ) * x⌋ % 2 ^ s.cfg.w).toNat) ∧
      (fval k = none → exec (.mulr rd a k) s = .next { s with offered := some ⟨.invalidInput, 0⟩ })

/-- UNIFORM (R107): its encoding; with a random-source port, one BITS request, and `T[RD]` becomes the low `W` bits of
the answer, or the command waits: while there is no answer, with the request transferred, and while the backend does
not take the request, with the request offered; without the port, `ILLEGAL_CMD`. -/
def Obligations.UniformKeepsTheLowBitsOfOneDraw : Prop :=
  ∀ rd : TReg,
    (∀ data, decode ⟨BitVec.ofNat 16 (0xB000 + rd.val * 512), data⟩ = .ok (.uniform rd)) ∧
    ∀ s : State,
      (s.cfg.hasRng = true → s.drawPending = none → s.rngReady = true → ∀ x xs, s.drawIn = x :: xs →
        ∃ t, exec (.uniform rd) s = .next t ∧
          WritesOnly (afterDraw s ⟨.bits, 0⟩ xs) t rd (x.toNat % 2 ^ s.cfg.w)) ∧
      (s.cfg.hasRng = true → s.drawPending = none → s.rngReady = true → s.drawIn = [] → exec (.uniform rd) s =
        .next { s with
          drawOffered := none, drawPending := some ⟨.bits, 0⟩, drawRequests := s.drawRequests ++ [⟨.bits, 0⟩] }) ∧
      (s.cfg.hasRng = true → s.drawPending = none → s.rngReady = false →
        exec (.uniform rd) s = .next { s with drawOffered := some ⟨.bits, 0⟩ }) ∧
      (s.cfg.hasRng = false → exec (.uniform rd) s = .next { s with offered := some ⟨.illegalCmd, 0⟩ })

/-- NORMAL (R108): its encoding; with a random-source port and a standard deviation that is finite and not negative,
one GAUSS request that carries it unchanged, and `T[RD]` becomes the reduced, scaled and floored answer
(`INVALID_INPUT`, the draw consumed, when the answer is not finite), or the command waits: while there is no answer,
with the request transferred, and while the backend does not take the request, with the request offered; with any other standard deviation, `INVALID_PARAM` and no request; without the port, `ILLEGAL_CMD`. -/
def Obligations.NormalEncodesOneGaussianDraw : Prop :=
  ∀ (rd : TReg) (sd : Data),
    decode ⟨BitVec.ofNat 16 (0xC000 + rd.val * 512), sd⟩ = .ok (.normal rd sd) ∧
    ∀ s : State,
      (s.cfg.hasRng = true → (∃ v : ℚ, fval sd = some v ∧ 0 ≤ v) → s.drawPending = none →
        s.rngReady = true → ∀ x xs, s.drawIn = x :: xs →
          (∀ v : ℚ, fval x = some v → ∃ t, exec (.normal rd sd) s = .next t ∧
            WritesOnly (afterDraw s ⟨.gauss, sd⟩ xs) t rd (⌊(v - ⌊v⌋) * 2 ^ s.cfg.w⌋.toNat)) ∧
          (fval x = none → exec (.normal rd sd) s =
            .next { afterDraw s ⟨.gauss, sd⟩ xs with offered := some ⟨.invalidInput, 0⟩ })) ∧
      (s.cfg.hasRng = true → (∃ v : ℚ, fval sd = some v ∧ 0 ≤ v) → s.drawPending = none →
        s.rngReady = true → s.drawIn = [] → exec (.normal rd sd) s = .next { s with
          drawOffered := none, drawPending := some ⟨.gauss, sd⟩, drawRequests := s.drawRequests ++ [⟨.gauss, sd⟩] }) ∧
      (s.cfg.hasRng = true → (∃ v : ℚ, fval sd = some v ∧ 0 ≤ v) → s.drawPending = none → s.rngReady = false →
        exec (.normal rd sd) s = .next { s with drawOffered := some ⟨.gauss, sd⟩ }) ∧
      (s.cfg.hasRng = true → (¬ ∃ v : ℚ, fval sd = some v ∧ 0 ≤ v) →
        exec (.normal rd sd) s = .next { s with offered := some ⟨.invalidParam, 0⟩ }) ∧
      (s.cfg.hasRng = false → exec (.normal rd sd) s = .next { s with offered := some ⟨.illegalCmd, 0⟩ })

/-! ## Numerics -/

/-- `fdec` gives the exact value of every finite pattern, within the bounds of R12, and the classes of R12 have the
values its table gives. -/
def Obligations.FdecGivesTheExactValue : Prop :=
  ∀ b : Data,
    (ffinite b = true ↔ ∃ x, fval b = some x) ∧
    (∀ x : ℚ, fval b = some x →
      x = (if (fdec b).s then -1 else 1) * (fdec b).m * (2 : ℚ) ^ (fdec b).e ∧
      (fdec b).m < 2 ^ 53 ∧ -1074 ≤ (fdec b).e ∧ (fdec b).e ≤ 971) ∧
    (fexp b = 0 → fman b = 0 → fval b = some 0) ∧
    (fexp b = 0 → fman b ≠ 0 → fval b = some ((if fsign b then -1 else 1) * fman b * (2 : ℚ) ^ (-1074 : ℤ))) ∧
    (1 ≤ fexp b → fexp b ≤ 2046 →
      fval b = some ((if fsign b then -1 else 1) * (2 ^ 52 + fman b) * (2 : ℚ) ^ ((fexp b : ℤ) - 1075))) ∧
    (fexp b = 2047 → fval b = none)

/-- `FloorScale(s, P, E)` is `floor((-1)^s * P * 2^E) mod 2^W` (R13), although it is computed on integers alone. -/
def Obligations.FloorScaleIsTheFloorOfTheRational : Prop :=
  ∀ (w : Nat) (s : Bool) (P : Nat) (E : ℤ),
    ((floorScale w s P E).toNat : ℤ) = ⌊(if s then -1 else 1) * (P : ℚ) * (2 : ℚ) ^ E⌋ % 2 ^ w

/-- `SigmaValid(sd)`, a test of bits, holds exactly when `sd` is finite and not below zero (R109). -/
def Obligations.SigmaValidMeansFiniteAndNotNegative : Prop :=
  ∀ sd : Data, sigmaValid sd = true ↔ ∃ x : ℚ, fval sd = some x ∧ 0 ≤ x

/-- The laws of FROMREAL (R77): operands whose values differ by an integer give one result; the result is within one
grid step below the operand's fraction; an operand on the grid is converted exactly; and 0.5, 1.5 and -0.5 all give
`2^(W-1)`. -/
def Obligations.FromrealLaws : Prop :=
  ∀ (s t : State) (rd : TReg) (f : Data) (x : ℚ), fval f = some x → exec (.fromreal rd f) s = .next t →
    (∀ (g : Data) (k : ℤ) (u : State), fval g = some (x + k) → exec (.fromreal rd g) s = .next u → u = t) ∧
    (0 ≤ (x - ⌊x⌋) - (t.uint rd : ℚ) / 2 ^ s.cfg.w ∧ (x - ⌊x⌋) - (t.uint rd : ℚ) / 2 ^ s.cfg.w < 1 / 2 ^ s.cfg.w) ∧
    (∀ n : ℤ, x * 2 ^ s.cfg.w = n → (t.uint rd : ℤ) = n % 2 ^ s.cfg.w) ∧
    (f ∈ [0x3FE0000000000000, 0x3FF8000000000000, 0xBFE0000000000000] → t.uint rd = 2 ^ (s.cfg.w - 1))

/-- The round trips (R80): TOREAL then FROMREAL gives back the same `inner`, for every register content and every `W`;
FROMREAL then TOREAL gives back the fraction of the operand less an error below one grid step, which is zero exactly on
the grid. -/
def Obligations.RoundTrips : Prop :=
  (∀ (s t : State) (a : TReg) (r : Data), exec (.toreal a) s = .next t → t.offered = some ⟨.ok, r⟩ →
    ∀ rd : TReg, ∃ u, exec (.fromreal rd r) s = .next u ∧ u.uint rd = s.uint a) ∧
  (∀ (s t u : State) (rd : TReg) (f r : Data) (x y : ℚ), fval f = some x → exec (.fromreal rd f) s = .next t →
    exec (.toreal rd) t = .next u → u.offered = some ⟨.ok, r⟩ → fval r = some y →
      0 ≤ (x - ⌊x⌋) - y ∧ (x - ⌊x⌋) - y < 1 / 2 ^ s.cfg.w ∧
      ((x - ⌊x⌋) - y = 0 ↔ ∃ n : ℤ, x * 2 ^ s.cfg.w = n))

/-- For an integer-valued real scalar that fits 32 bits signed, MULR does exactly what MULI does with that integer
(R89). -/
def Obligations.MulrAgreesWithMuliOnIntegers : Prop :=
  ∀ (s : State) (rd a : TReg) (k : Data) (j : BitVec 32), fval k = some (j.toInt : ℚ) →
    exec (.mulr rd a k) s = exec (.muli rd a j) s

/-- MULI distributes over ADD, and two of them are one by the product modulo `2^32`, for every `W <= 32` (R91). -/
def Obligations.MuliDistributesAndComposes : Prop :=
  ∀ (w : Nat) (a b : BitVec w) (j k : BitVec 32), w ≤ 32 →
    torusMulInt (torusAdd a b) k = torusAdd (torusMulInt a k) (torusMulInt b k) ∧
    torusMulInt (torusMulInt a j) k = torusMulInt a (j * k)

/-- On the torus, ADD, SUB, NEG and MULI are exact modulo 1 (R91): the real of the result is the fraction of the
result on reals. -/
def Obligations.ArithmeticIsExactModuloOne : Prop :=
  ∀ (w : Nat) (a b : BitVec w) (k : BitVec 32),
    ((torusAdd a b).toNat : ℚ) / 2 ^ w = Int.fract ((a.toNat : ℚ) / 2 ^ w + (b.toNat : ℚ) / 2 ^ w) ∧
    ((torusSub a b).toNat : ℚ) / 2 ^ w = Int.fract ((a.toNat : ℚ) / 2 ^ w - (b.toNat : ℚ) / 2 ^ w) ∧
    ((torusNeg a).toNat : ℚ) / 2 ^ w = Int.fract (-((a.toNat : ℚ) / 2 ^ w)) ∧
    ((torusMulInt a k).toNat : ℚ) / 2 ^ w = Int.fract ((a.toNat : ℚ) / 2 ^ w * (k.toInt : ℚ))

/-- SIGN of a value and SIGN of its NEG are opposite but for 0 (both +1) and `2^(W-1)` (both -1) (R100). -/
def Obligations.SignOfNegIsOppositeButAtTheTwoFixedPoints : Prop :=
  ∀ (p : Params) (a : BitVec p.w),
    (a.toNat ≠ 0 → a.toNat ≠ 2 ^ (p.w - 1) → signData (torusNeg a) = -signData a) ∧
    (a.toNat = 0 → signData a = 1 ∧ signData (torusNeg a) = 1) ∧
    (a.toNat = 2 ^ (p.w - 1) → signData a = -1 ∧ signData (torusNeg a) = -1)

/-- NORMAL is FROMREAL applied to the draw (R108 "exactly FROMREAL applied to x"): with the answer consumed, it does
what FROMREAL does with the answer as its operand. -/
def Obligations.NormalIsFromrealOfTheDraw : Prop :=
  ∀ (s : State) (rd : TReg) (sd x : Data) (xs : List Data), s.cfg.hasRng = true → sigmaValid sd = true →
    s.drawPending = none → s.rngReady = true → s.drawIn = x :: xs →
    exec (.normal rd sd) s = exec (.fromreal rd x) (afterDraw s ⟨.gauss, sd⟩ xs)

/-- Every one of the `2^W` values can result from UNIFORM (R107). -/
def Obligations.UniformReachesEveryValue : Prop :=
  ∀ (s : State) (rd : TReg) (n : Nat), s.cfg.hasRng = true → s.drawPending = none →
    s.rngReady = true → n < 2 ^ s.cfg.w → ∃ (x : Data) (t : State), exec (.uniform rd) (backendAnswer x { s with drawIn := [] }) = .next t ∧ t.uint rd = n

/-! ## What a command touches -/

/-- The read and write table (R21): a command writes at most its destination register, and none unless it answers OK;
its response, and what it writes, depend on the parameters and its source registers alone (for a command without a
draw). -/
def Obligations.CommandsFollowTheReadWriteTable : Prop :=
  (∀ (i : Instr) (s t : State), exec i s = .next t →
    (∀ j, i.dest ≠ some j → t.uint j = s.uint j) ∧
    (s.offered = none → (∀ d, t.offered ≠ some ⟨.ok, d⟩) → ∀ j, t.uint j = s.uint j)) ∧
  (∀ (i : Instr) (s s' t t' : State), i.samples = false → s.cfg = s'.cfg →
    (∀ j ∈ i.sources, s.uint j = s'.uint j) → exec i s = .next t → exec i s' = .next t' →
    t.offered = t'.offered ∧
    ∀ rd d, i.dest = some rd → t.offered = some ⟨.ok, d⟩ → t.uint rd = t'.uint rd)

/-- An error changes nothing (R119): the data is 0, no register and nothing else differs, except that NORMAL answering
`INVALID_INPUT` has consumed the backend's next answer to its one request, which was transferred then unless it was outstanding. -/
def Obligations.ErrorsLeaveNoTrace : Prop :=
  ∀ (i : Instr) (s t : State) (st : Status) (d : Data), exec i s = .next t → s.offered = none →
    t.offered = some ⟨st, d⟩ → st ≠ .ok →
    d = 0 ∧
    (t = { s with offered := some ⟨st, 0⟩ } ∨
      ∃ rd sd x xs, i = .normal rd sd ∧ st = .invalidInput ∧ s.drawIn = x :: xs ∧
        t = { s with
          offered := some ⟨st, 0⟩
          drawIn := xs
          drawOffered := none
          drawPending := none
          drawRequests := if s.drawPending = none then s.drawRequests ++ [⟨.gauss, sd⟩] else s.drawRequests })

/-- A legal word is answered `ILLEGAL_CMD` only when it is UNIFORM or NORMAL in an instance without a random-source
port (R58, R118); `INVALID_PARAM` comes from NORMAL alone (R117). -/
def Obligations.WhichCommandsAnswerWhichError : Prop :=
  ∀ (i : Instr) (s t : State) (d : Data), exec i s = .next t → s.offered = none →
    (t.offered = some ⟨.illegalCmd, d⟩ → i.samples = true ∧ s.cfg.hasRng = false) ∧
    (t.offered = some ⟨.invalidParam, d⟩ → ∃ rd sd, i = .normal rd sd ∧ sigmaValid sd = false) ∧
    (t.offered = some ⟨.invalidInput, d⟩ → (∃ rd f, (i = .fromreal rd f ∨ ∃ a, i = .mulr rd a f) ∧ fval f = none) ∨
      ∃ rd sd x xs, i = .normal rd sd ∧ sigmaValid sd = true ∧ s.drawIn = x :: xs ∧ fval x = none)

/-- Only UNIFORM and NORMAL use the random-source port, and each sends at most one request, its own, which is
transferred only when the backend takes it, and consumes at most one answer, only once its request has been transferred
(R46, R50, R106). -/
def Obligations.OnlySamplingDrawsAndAtMostOnce : Prop :=
  ∀ (i : Instr) (s t : State), exec i s = .next t →
    (i.samples = false →
      t.drawIn = s.drawIn ∧ t.drawOffered = s.drawOffered ∧ t.drawPending = s.drawPending ∧
        t.drawRequests = s.drawRequests) ∧
    (t.drawOffered = s.drawOffered ∨ t.drawOffered = none ∨ t.drawOffered = drawOf i) ∧
    (t.drawRequests = s.drawRequests ∨
      s.drawPending = none ∧ s.rngReady = true ∧
        ∃ req, drawOf i = some req ∧ t.drawRequests = s.drawRequests ++ [req]) ∧
    (t.drawIn = s.drawIn ∨
      (s.drawPending ≠ none ∨ t.drawRequests ≠ s.drawRequests) ∧ ∃ x, s.drawIn = x :: t.drawIn)

/-- Without a draw, neither the backend's answers nor the presence of the random-source port matter (R81
determinism, R105): the ten other commands do the same with other answers, with a backend that takes requests or
not, and in an instance built with the other `HAS_RNG`. -/
def Obligations.OtherCommandsDoNotSeeTheRandomSource : Prop :=
  ∀ (i : Instr) (s t : State) (xs : List Data) (b : Bool), i.samples = false → exec i s = .next t →
    exec i { s with drawIn := xs } = .next { t with drawIn := xs } ∧
    exec i (backendSetReady b s) = .next (backendSetReady b t) ∧ exec i (s.withRng b) = .next (t.withRng b)

/-- Reading a register is idempotent (R38): TORAW, TOREAL and SIGN, repeated without a write between, answer the same
and change nothing. -/
def Obligations.ReadingTwiceAnswersTheSame : Prop :=
  ∀ (a : TReg) (i : Instr) (s t : State), i ∈ [.toraw a, .toreal a, .sign a] → exec i s = .next t →
    exec i t = .next t ∧ ∀ j, t.uint j = s.uint j

/-- A destination equal to the first source leaves there exactly what another destination would have held (R92). -/
def Obligations.CompoundAssignmentMatchesTheLongForm : Prop :=
  ∀ (s t u : State) (d r b : TReg) (k : BitVec 32) (f : Data) (long short : Instr),
    (long, short) ∈ [(Instr.add d r b, Instr.add r r b), (Instr.sub d r b, Instr.sub r r b),
      (Instr.muli d r k, Instr.muli r r k)] ∨ (long, short) = (Instr.mulr d r f, Instr.mulr r r f) ∧ ffinite f = true →
    exec long s = .next t → exec short s = .next u → u.uint r = t.uint d ∧ u.offered = t.offered

/-! ## The step -/

/-- A step (the model's own: one command runs to its end, its wait for the draw, or its wait for the host; log 4, 7)
runs the decoded command: an idle FTU takes the first offered command and runs its meaning; a waiting FTU
runs the meaning of the command it holds; then the response, if there is one, is transferred when the host takes it
(R15, R58, R145). -/
def Obligations.StepRunsTheDecodedCommand : Prop :=
  (∀ (s t : State) (c : Command) (rest : List Command) (i : Instr), s.rst = false → s.offered = none →
    s.current = none → s.cmdIn = c :: rest → decode c = .ok i →
    exec i { s with cmdIn := rest, current := some c } = .next t → ∃ u, step s = .next u ∧ Delivered t u) ∧
  (∀ (s t : State) (c : Command) (i : Instr), s.rst = false → s.offered = none → s.current = some c →
    decode c = .ok i → exec i s = .next t → ∃ u, step s = .next u ∧ Delivered t u)

/-- A word placed for the next step is the one it runs. That placing a word stands for the host offering a command, and
the numbering of its bits, are the model's choice (log 4, 5). -/
def Obligations.PlacedWordRunsNext : Prop :=
  ∀ (s t : State) (nbits w : Nat) (i : Instr), decodeTableWord nbits w = some i →
    exec i { s with
      rst := false, offered := none, drawOffered := none, drawPending := none
      current := some (commandOfBits nbits w) } = .next t →
    ∃ u, step (s.withFetchWord nbits w) = .next u ∧ Delivered t u

/-- An illegal word (R59, R60, R61, R118) is answered `ILLEGAL_CMD` with data 0, and nothing else changes: no register,
no draw, whatever `DATA` is. -/
def Obligations.IllegalWordsAreAnsweredAndChangeNothing : Prop :=
  ∀ (s : State) (w : CmdWord) (data : Data) (rest : List Command), s.rst = false → s.offered = none →
    s.current = none → s.cmdIn = ⟨w, data⟩ :: rest → IllegalWord s.cfg w →
    ∃ u, step s = .next u ∧
      Delivered { s with cmdIn := rest, current := some ⟨w, data⟩, offered := some ⟨.illegalCmd, 0⟩ } u

/-- No state stops the machine: every step has a next state (R22, R115, R122); and an idle unit with nothing offered to
it keeps its registers and all else (R130). That an idle or a waiting unit steps to itself, so that a step in which
nothing can happen exists, is the model's choice (log 7). -/
def Obligations.EveryStepHasANextState : Prop :=
  (∀ s : State, ∃ t, step s = .next t) ∧
  ∀ s : State, s.rst = false → s.Idle → s.cmdIn = [] → step s = .next s

/-- Every step keeps the legal combinations of the hidden state (R28, R46, R105, R145). -/
def Obligations.StepKeepsCoherence : Prop := ∀ s t : State, Coherent s → step s = .next t → Coherent t

/-- Right after reset every instance is idle, with nothing outstanding and ready to take a command (R29, R140). That
`RST` is released and the record is empty is the model's choice (log 9, 11). -/
def Obligations.ResetIsIdle : Prop :=
  ∀ p : Params, (State.resetWith p).Idle ∧ Coherent (State.resetWith p) ∧ (State.resetWith p).rst = false ∧
    (State.resetWith p).cfg = p ∧ (State.resetWith p).responses = [] ∧ (State.resetWith p).drawRequests = [] ∧
    InstanceInv p (State.resetWith p)

/-- Every state a run from reset can reach, with the host and the backend acting in any way between steps, is coherent
and has the parameters it was built with; without a random-source port no request was ever sent (R6, R28, R105). What
the host and the backend can do is the model's list of inputs (log 4, 6, 8, 11, 17). -/
def Obligations.RunsStayCoherent : Prop :=
  ∀ (p : Params) (s : State), Reachable p s →
    Coherent s ∧ s.cfg = p ∧ (p.hasRng = false → s.drawRequests = [] ∧ s.drawOffered = none ∧ s.drawPending = none)

/-- No step changes the build parameters (R6). -/
def Obligations.NoStepChangesTheParameters : Prop := ∀ s t : State, step s = .next t → t.cfg = s.cfg

/-- A step without `RST` writes at most one register (R21): the destination of the command it runs, and that only when
the command answers OK, with what the register then holds as the response. A step that is idle, waits, transfers a
response, or runs an illegal word, a command in error or a command without a destination writes none. -/
def Obligations.StepWritesAtMostOneRegister : Prop :=
  ∀ s t : State, s.rst = false → step s = .next t → ∀ j : TReg,
    ((∀ c i, s.commandToRun = some c → decode c = .ok i → i.dest ≠ some j) → t.uint j = s.uint j) ∧
    ((t.offered ≠ some ⟨.ok, BitVec.ofNat 64 (t.uint j)⟩ ∧
      t.responses ≠ s.responses ++ [⟨.ok, BitVec.ofNat 64 (t.uint j)⟩]) → t.uint j = s.uint j)

/-- One command at a time, in order (R145): a step takes no command, or it takes the first one the host offers, and
that only when `RST` is released, nothing is in execution and no response is offered; and it transfers at most one
response, which in a coherent state is that of the command in execution or just taken. That the host takes responses
or not is a level in the model (log 8). -/
def Obligations.CommandsAreTakenOneAtATimeInOrder : Prop :=
  ∀ s t : State, step s = .next t →
    (t.cmdIn = s.cmdIn ∨ s.rst = false ∧ s.current = none ∧ s.offered = none ∧ ∃ c, s.cmdIn = c :: t.cmdIn) ∧
    (t.responses = s.responses ∨
      s.rst = false ∧ s.rspReady = true ∧ t.current = none ∧ t.offered = none ∧
        ∃ r, t.responses = s.responses ++ [r]) ∧
    (Coherent s → t.responses ≠ s.responses → s.current ≠ none ∨ t.cmdIn ≠ s.cmdIn)

/-- One command, one response (R50, R145): an idle FTU whose host takes responses and whose backend takes a request and
answers, if it is asked, completes the first offered command in one step: one more response, idle again, the other commands still
offered. That the readiness of either is a level and the backend's answers a list is the model's choice (log 6, 8, 17). -/
def Obligations.OneStepOneCommandOneResponse : Prop :=
  ∀ (s : State) (c : Command) (rest : List Command), s.rst = false → s.Idle → s.rspReady = true →
    s.cmdIn = c :: rest → (s.rngReady = true ∧ s.drawIn ≠ [] ∨ ∀ i, decode c = .ok i → i.samples = false) →
    ∃ t r, step s = .next t ∧ t.Idle ∧ t.cmdIn = rest ∧ t.responses = s.responses ++ [r]

/-- An offered response is held until the host takes it, and then the FTU is without a command (R143 duty 3, R145).
That holding it is a step that changes nothing is the model's choice (log 7), and so is the level that says whether
the host takes it (log 8). -/
def Obligations.ResponseIsHeldUntilTaken : Prop :=
  ∀ (s : State) (r : Response), s.rst = false → s.offered = some r →
    (s.rspReady = false → step s = .next s) ∧
    (s.rspReady = true →
      step s = .next { s with offered := none, current := none, responses := s.responses ++ [r] })

/-- Only the backend lifts the wait of a sampling command (R146): a coherent state that waits for an answer, with none,
or for the backend to take the request, while it does not (R50), steps to itself, which is how the model lets it wait
(log 7). -/
def Obligations.OnlyTheBackendLiftsTheWait : Prop :=
  ∀ (s : State) (req : DrawRequest), Coherent s → s.rst = false →
    (s.drawPending = some req → s.drawIn = [] → step s = .next s) ∧
    (s.drawOffered = some req → s.rngReady = false → step s = .next s)

/-- What comes late does what it does when it is at hand (R50, R106, R146): if an idle FTU takes a command and waits for
the answer, then answering it then and stepping gives exactly the state that stepping with the answer at hand gives; if
it waits for the backend to take its request, then taking it then does what taking it at once does. That the backend's
answers are a list, that its readiness is a level and that a waiting command runs its meaning again is the model's
reading (log 6, 13, 17). -/
def Obligations.LateDrawActsAsEarlyDraw : Prop :=
  (∀ (s t : State) (x : Data), s.rst = false → s.Idle → s.drawIn = [] → step s = .next t → t.drawPending ≠ none →
    step (backendAnswer x t) = step (backendAnswer x s)) ∧
  ∀ s t : State, s.rst = false → s.Idle → step s = .next t → t.drawOffered ≠ none →
    step (backendSetReady true t) = step (backendSetReady true s)

/-- While `RST` is asserted (R140): no command is accepted, no response and no request is offered or transferred;
and what a step leaves is idle with nothing outstanding, in the same instance. That one step with `RST` asserted acts
as the reset is the model's choice (log 11). No answer of the backend is consumed either, but that the one to a
request that was outstanding is discarded and reaches no later command (R142, R143 duty 4; log 10). A command still on
offer stays so, which is the model's choice (log 18). -/
def Obligations.AssertedResetIdlesTheUnit : Prop :=
  ∀ s : State, s.rst = true → ∃ t, step s = .next t ∧ t.Idle ∧ t.cmdIn = s.cmdIn ∧ t.responses = s.responses ∧
    t.drawRequests = s.drawRequests ∧ t.cfg = s.cfg ∧ t.rst = true ∧
    t.rngReady = s.rngReady ∧ (s.drawPending = none → t.drawIn = s.drawIn) ∧
    ∀ req, s.drawPending = some req → t.drawIn = s.drawIn.drop 1

/-- A step, and everything the host and the backend can do between two steps, keeps what holds of the unit built with
`p`: legal hidden state, its parameters, and no draw request without a random-source port (R6, R28, R46, R105, R145).
What the host and the backend can do is the model's list of inputs (log 4, 6, 8, 11, 17). -/
def Obligations.StepKeepsTheInstanceInvariant : Prop :=
  ∀ (p : Params) (s : State), InstanceInv p s →
    (∀ t, step s = .next t → InstanceInv p t) ∧ (∀ c, InstanceInv p (hostSend c s)) ∧
    (∀ b, InstanceInv p (hostSetReady b s) ∧ InstanceInv p (hostSetReset b s)) ∧
    (∀ b, InstanceInv p (backendSetReady b s)) ∧ ∀ x, InstanceInv p (backendAnswer x s)

/-- A draw request is transferred only when the backend takes it (R50), and only a transferred request is answered (R50,
R106). A step adds at most one transferred request, and that only without `RST`, while the backend takes requests and
none is outstanding. While the backend takes none and none is outstanding, no answer is consumed and a sampling command
that asks for a draw gives no response and offers its request. A step with `RST` forgets an offered request. That the
backend's readiness is a level is the model's choice (log 17). -/
def Obligations.RequestsAreTransferredWhenTheBackendTakesThem : Prop :=
  ∀ s t : State, step s = .next t →
    (t.drawRequests = s.drawRequests ∨
      s.rst = false ∧ s.rngReady = true ∧ s.drawPending = none ∧ ∃ req, t.drawRequests = s.drawRequests ++ [req]) ∧
    (s.drawPending = none → s.rngReady = false →
      t.drawIn = s.drawIn ∧ t.drawPending = none ∧ t.drawRequests = s.drawRequests) ∧
    (s.rst = false → s.rngReady = false → s.drawPending = none → ∀ c i req,
      s.commandToRun = some c → decode c = .ok i → drawOf i = some req → s.cfg.hasRng = true →
        t.offered = none ∧ t.responses = s.responses ∧ t.drawOffered = some req) ∧
    (s.rst = true → t.drawOffered = none)
end

