-- ==== Sys2Proof/Laws/Decode.lean ====
section
/-! SUPPORT. The fields of an encoded word, and what the legality check answers. -/

namespace Sys2Proof

theorem wordOf_toNat {op : Nat} (h : op < 16) (rd rs1 rs2 : TReg) :
    (wordOf op rd rs1 rs2).toNat = op * 4096 + rd.val * 512 + rs1.val * 64 + rs2.val * 8 := by
  have h1 := rd.isLt; have h2 := rs1.isLt; have h3 := rs2.isLt
  simp only [wordOf, BitVec.toNat_ofNat]
  omega

theorem opField_wordOf {op : Nat} (h : op < 16) (rd rs1 rs2 : TReg) : opField (wordOf op rd rs1 rs2) = op := by
  have h1 := rd.isLt; have h2 := rs1.isLt; have h3 := rs2.isLt
  simp only [opField, wordOf_toNat h]; omega

theorem rdField_wordOf {op : Nat} (h : op < 16) (rd rs1 rs2 : TReg) : rdField (wordOf op rd rs1 rs2) = rd := by
  have h1 := rd.isLt; have h2 := rs1.isLt; have h3 := rs2.isLt
  apply Fin.ext; simp only [rdField, wordOf_toNat h]; omega

theorem rs1Field_wordOf {op : Nat} (h : op < 16) (rd rs1 rs2 : TReg) : rs1Field (wordOf op rd rs1 rs2) = rs1 := by
  have h1 := rd.isLt; have h2 := rs1.isLt; have h3 := rs2.isLt
  apply Fin.ext; simp only [rs1Field, wordOf_toNat h]; omega

theorem rs2Field_wordOf {op : Nat} (h : op < 16) (rd rs1 rs2 : TReg) : rs2Field (wordOf op rd rs1 rs2) = rs2 := by
  have h1 := rd.isLt; have h2 := rs1.isLt; have h3 := rs2.isLt
  apply Fin.ext; simp only [rs2Field, wordOf_toNat h]; omega

theorem zField_wordOf {op : Nat} (h : op < 16) (rd rs1 rs2 : TReg) : zField (wordOf op rd rs1 rs2) = 0 := by
  have h1 := rd.isLt; have h2 := rs1.isLt; have h3 := rs2.isLt
  simp only [zField, wordOf_toNat h]; omega

/-- A word is its fields put together. -/
theorem wordOf_fields (w : CmdWord) (hz : zField w = 0) :
    wordOf (opField w) (rdField w) (rs1Field w) (rs2Field w) = w := by
  have := w.isLt
  apply BitVec.eq_of_toNat_eq
  simp only [opField, rdField, rs1Field, rs2Field, zField, wordOf, BitVec.toNat_ofNat] at *
  omega

/-- The legality check answers `i` exactly when `Z` and the unused fields are zero (R51, R61). -/
theorem legalIf_eq_ok {w : CmdWord} {unused : List TReg} {i j : Instr} :
    legalIf w unused i = .ok j ↔ zField w = 0 ∧ (∀ r ∈ unused, r = 0) ∧ i = j := by
  simp only [legalIf, List.all_eq_true, beq_iff_eq]
  split
  · simp [*]
  · split
    · next hz hu => simp_all only [ne_eq, not_not, Except.ok.injEq, true_and]; exact ⟨fun h => ⟨hu, h⟩, And.right⟩
    · next hu => simp [hu]

end Sys2Proof
end

