-- ==== Sys2Proof/Laws/F64.lean ====
section
/-! SUPPORT. The fields of a 64-bit floating-point pattern, and the arms of `FloorScale`. -/

namespace Sys2Proof.Machine

theorem fexp_lt (b : Data) : fexp b < 2048 := Nat.mod_lt _ (by decide)

theorem fman_lt (b : Data) : fman b < 2 ^ 52 := Nat.mod_lt _ (by decide)

theorem ffinite_iff (b : Data) : ffinite b = true ↔ fexp b ≠ 2047 := by simp [ffinite]

theorem fval_eq_none_iff (b : Data) : fval b = none ↔ fexp b = 2047 := by
  simp only [fval]
  by_cases h : fexp b = 2047
  · simp [h]
  · by_cases h0 : fexp b = 0 <;> simp [h, h0]

theorem fval_isSome_iff (b : Data) : (∃ x, fval b = some x) ↔ fexp b ≠ 2047 := by
  rw [← not_iff_not, not_not, ← fval_eq_none_iff]
  cases fval b <;> simp

/-- With `E >= 0` nothing is shifted out (R13). -/
theorem floorScale_of_nonneg (w : Nat) (s : Bool) (P : Nat) {E : Int} (h : 0 ≤ E) :
    floorScale w s P E = trunc w (if s then -((P : Int) * 2 ^ E.toNat) else (P : Int) * 2 ^ E.toNat) := by
  simp [floorScale, h]

end Sys2Proof.Machine
end

