-- ==== Sys2Proof/Laws/State.lean ====
section
/-! SUPPORT. One lemma per field per update of the state, so that no proof unfolds an update. -/

namespace Sys2Proof.Machine

section writeTorus

variable (s : State) (i : TReg) (v : BitVec s.cfg.w)

@[simp] theorem writeTorus_cfg : (s.writeTorus i v).cfg = s.cfg := rfl
@[simp] theorem writeTorus_current : (s.writeTorus i v).current = s.current := rfl
@[simp] theorem writeTorus_drawOffered : (s.writeTorus i v).drawOffered = s.drawOffered := rfl
@[simp] theorem writeTorus_drawPending : (s.writeTorus i v).drawPending = s.drawPending := rfl
@[simp] theorem writeTorus_offered : (s.writeTorus i v).offered = s.offered := rfl
@[simp] theorem writeTorus_rst : (s.writeTorus i v).rst = s.rst := rfl
@[simp] theorem writeTorus_rspReady : (s.writeTorus i v).rspReady = s.rspReady := rfl
@[simp] theorem writeTorus_rngReady : (s.writeTorus i v).rngReady = s.rngReady := rfl
@[simp] theorem writeTorus_cmdIn : (s.writeTorus i v).cmdIn = s.cmdIn := rfl
@[simp] theorem writeTorus_drawIn : (s.writeTorus i v).drawIn = s.drawIn := rfl
@[simp] theorem writeTorus_responses : (s.writeTorus i v).responses = s.responses := rfl
@[simp] theorem writeTorus_drawRequests : (s.writeTorus i v).drawRequests = s.drawRequests := rfl
@[simp] theorem writeTorus_resets : (s.writeTorus i v).resets = s.resets := rfl

end writeTorus

section respond

variable (st : Status) (d : Data) (s : State)

@[simp] theorem respond_cfg : (respond st d s).cfg = s.cfg := rfl
@[simp] theorem respond_current : (respond st d s).current = s.current := rfl
@[simp] theorem respond_drawOffered : (respond st d s).drawOffered = s.drawOffered := rfl
@[simp] theorem respond_drawPending : (respond st d s).drawPending = s.drawPending := rfl
@[simp] theorem respond_offered : (respond st d s).offered = some ⟨st, d⟩ := rfl
@[simp] theorem respond_rst : (respond st d s).rst = s.rst := rfl
@[simp] theorem respond_rspReady : (respond st d s).rspReady = s.rspReady := rfl
@[simp] theorem respond_rngReady : (respond st d s).rngReady = s.rngReady := rfl
@[simp] theorem respond_cmdIn : (respond st d s).cmdIn = s.cmdIn := rfl
@[simp] theorem respond_drawIn : (respond st d s).drawIn = s.drawIn := rfl
@[simp] theorem respond_responses : (respond st d s).responses = s.responses := rfl
@[simp] theorem respond_drawRequests : (respond st d s).drawRequests = s.drawRequests := rfl
@[simp] theorem respond_resets : (respond st d s).resets = s.resets := rfl
@[simp] theorem respond_uint (j : TReg) : (respond st d s).uint j = s.uint j := rfl

end respond

section raise

variable (e : Status) (s : State)

@[simp] theorem raise_cfg : (raise e s).cfg = s.cfg := rfl
@[simp] theorem raise_current : (raise e s).current = s.current := rfl
@[simp] theorem raise_drawOffered : (raise e s).drawOffered = s.drawOffered := rfl
@[simp] theorem raise_drawPending : (raise e s).drawPending = s.drawPending := rfl
@[simp] theorem raise_offered : (raise e s).offered = some ⟨e, 0⟩ := rfl
@[simp] theorem raise_rst : (raise e s).rst = s.rst := rfl
@[simp] theorem raise_rspReady : (raise e s).rspReady = s.rspReady := rfl
@[simp] theorem raise_rngReady : (raise e s).rngReady = s.rngReady := rfl
@[simp] theorem raise_cmdIn : (raise e s).cmdIn = s.cmdIn := rfl
@[simp] theorem raise_drawIn : (raise e s).drawIn = s.drawIn := rfl
@[simp] theorem raise_responses : (raise e s).responses = s.responses := rfl
@[simp] theorem raise_drawRequests : (raise e s).drawRequests = s.drawRequests := rfl
@[simp] theorem raise_resets : (raise e s).resets = s.resets := rfl
@[simp] theorem raise_uint (j : TReg) : (raise e s).uint j = s.uint j := rfl

end raise

section finish

variable (s : State) (rd : TReg) (v : BitVec s.cfg.w)

@[simp] theorem finish_cfg : (finish s rd v).cfg = s.cfg := rfl
@[simp] theorem finish_current : (finish s rd v).current = s.current := rfl
@[simp] theorem finish_drawOffered : (finish s rd v).drawOffered = s.drawOffered := rfl
@[simp] theorem finish_drawPending : (finish s rd v).drawPending = s.drawPending := rfl
@[simp] theorem finish_offered : (finish s rd v).offered = some ⟨.ok, zext64 v⟩ := rfl
@[simp] theorem finish_rst : (finish s rd v).rst = s.rst := rfl
@[simp] theorem finish_rspReady : (finish s rd v).rspReady = s.rspReady := rfl
@[simp] theorem finish_rngReady : (finish s rd v).rngReady = s.rngReady := rfl
@[simp] theorem finish_cmdIn : (finish s rd v).cmdIn = s.cmdIn := rfl
@[simp] theorem finish_drawIn : (finish s rd v).drawIn = s.drawIn := rfl
@[simp] theorem finish_responses : (finish s rd v).responses = s.responses := rfl
@[simp] theorem finish_drawRequests : (finish s rd v).drawRequests = s.drawRequests := rfl
@[simp] theorem finish_resets : (finish s rd v).resets = s.resets := rfl

end finish

section accept

variable (c : Command) (rest : List Command) (s : State)

@[simp] theorem accept_cfg : (accept c rest s).cfg = s.cfg := rfl
@[simp] theorem accept_current : (accept c rest s).current = some c := rfl
@[simp] theorem accept_drawOffered : (accept c rest s).drawOffered = s.drawOffered := rfl
@[simp] theorem accept_drawPending : (accept c rest s).drawPending = s.drawPending := rfl
@[simp] theorem accept_offered : (accept c rest s).offered = s.offered := rfl
@[simp] theorem accept_rst : (accept c rest s).rst = s.rst := rfl
@[simp] theorem accept_rspReady : (accept c rest s).rspReady = s.rspReady := rfl
@[simp] theorem accept_rngReady : (accept c rest s).rngReady = s.rngReady := rfl
@[simp] theorem accept_cmdIn : (accept c rest s).cmdIn = rest := rfl
@[simp] theorem accept_drawIn : (accept c rest s).drawIn = s.drawIn := rfl
@[simp] theorem accept_responses : (accept c rest s).responses = s.responses := rfl
@[simp] theorem accept_drawRequests : (accept c rest s).drawRequests = s.drawRequests := rfl
@[simp] theorem accept_resets : (accept c rest s).resets = s.resets := rfl
@[simp] theorem accept_uint (j : TReg) : (accept c rest s).uint j = s.uint j := rfl

end accept

section applyReset

variable (s : State)

@[simp] theorem applyReset_cfg : (applyReset s).cfg = s.cfg := rfl
@[simp] theorem applyReset_current : (applyReset s).current = none := rfl
@[simp] theorem applyReset_drawOffered : (applyReset s).drawOffered = none := rfl
@[simp] theorem applyReset_drawPending : (applyReset s).drawPending = none := rfl
@[simp] theorem applyReset_offered : (applyReset s).offered = none := rfl
@[simp] theorem applyReset_rst : (applyReset s).rst = s.rst := rfl
@[simp] theorem applyReset_rspReady : (applyReset s).rspReady = s.rspReady := rfl
@[simp] theorem applyReset_rngReady : (applyReset s).rngReady = s.rngReady := rfl
@[simp] theorem applyReset_cmdIn : (applyReset s).cmdIn = s.cmdIn := rfl
@[simp] theorem applyReset_responses : (applyReset s).responses = s.responses := rfl
@[simp] theorem applyReset_drawRequests : (applyReset s).drawRequests = s.drawRequests := rfl
@[simp] theorem applyReset_drawIn_of_none (h : s.drawPending = none) : (applyReset s).drawIn = s.drawIn := by
  simp [applyReset, h]
@[simp] theorem applyReset_drawIn_of_some {req : DrawRequest} (h : s.drawPending = some req) :
    (applyReset s).drawIn = s.drawIn.drop 1 := by
  simp [applyReset, h]
@[simp] theorem applyReset_resets : (applyReset s).resets = s.resets + 1 := rfl

end applyReset

section offerNext

variable (c : Command) (s : State)

@[simp] theorem offerNext_cfg : (offerNext c s).cfg = s.cfg := rfl
@[simp] theorem offerNext_current : (offerNext c s).current = none := rfl
@[simp] theorem offerNext_drawOffered : (offerNext c s).drawOffered = none := rfl
@[simp] theorem offerNext_drawPending : (offerNext c s).drawPending = none := rfl
@[simp] theorem offerNext_offered : (offerNext c s).offered = none := rfl
@[simp] theorem offerNext_rst : (offerNext c s).rst = false := rfl
@[simp] theorem offerNext_rspReady : (offerNext c s).rspReady = s.rspReady := rfl
@[simp] theorem offerNext_rngReady : (offerNext c s).rngReady = s.rngReady := rfl
@[simp] theorem offerNext_cmdIn : (offerNext c s).cmdIn = c :: s.cmdIn := rfl
@[simp] theorem offerNext_drawIn : (offerNext c s).drawIn = s.drawIn := rfl
@[simp] theorem offerNext_responses : (offerNext c s).responses = s.responses := rfl
@[simp] theorem offerNext_drawRequests : (offerNext c s).drawRequests = s.drawRequests := rfl
@[simp] theorem offerNext_resets : (offerNext c s).resets = s.resets := rfl
@[simp] theorem offerNext_uint (j : TReg) : (offerNext c s).uint j = s.uint j := rfl

end offerNext

section hostSend

variable (c : Command) (s : State)

@[simp] theorem hostSend_cfg : (hostSend c s).cfg = s.cfg := rfl
@[simp] theorem hostSend_current : (hostSend c s).current = s.current := rfl
@[simp] theorem hostSend_drawOffered : (hostSend c s).drawOffered = s.drawOffered := rfl
@[simp] theorem hostSend_drawPending : (hostSend c s).drawPending = s.drawPending := rfl
@[simp] theorem hostSend_offered : (hostSend c s).offered = s.offered := rfl
@[simp] theorem hostSend_rst : (hostSend c s).rst = s.rst := rfl
@[simp] theorem hostSend_rspReady : (hostSend c s).rspReady = s.rspReady := rfl
@[simp] theorem hostSend_rngReady : (hostSend c s).rngReady = s.rngReady := rfl
@[simp] theorem hostSend_cmdIn : (hostSend c s).cmdIn = s.cmdIn ++ [c] := rfl
@[simp] theorem hostSend_drawIn : (hostSend c s).drawIn = s.drawIn := rfl
@[simp] theorem hostSend_responses : (hostSend c s).responses = s.responses := rfl
@[simp] theorem hostSend_drawRequests : (hostSend c s).drawRequests = s.drawRequests := rfl
@[simp] theorem hostSend_resets : (hostSend c s).resets = s.resets := rfl
@[simp] theorem hostSend_uint (j : TReg) : (hostSend c s).uint j = s.uint j := rfl

end hostSend

section hostSetReady

variable (b : Bool) (s : State)

@[simp] theorem hostSetReady_cfg : (hostSetReady b s).cfg = s.cfg := rfl
@[simp] theorem hostSetReady_current : (hostSetReady b s).current = s.current := rfl
@[simp] theorem hostSetReady_drawOffered : (hostSetReady b s).drawOffered = s.drawOffered := rfl
@[simp] theorem hostSetReady_drawPending : (hostSetReady b s).drawPending = s.drawPending := rfl
@[simp] theorem hostSetReady_offered : (hostSetReady b s).offered = s.offered := rfl
@[simp] theorem hostSetReady_rst : (hostSetReady b s).rst = s.rst := rfl
@[simp] theorem hostSetReady_rspReady : (hostSetReady b s).rspReady = b := rfl
@[simp] theorem hostSetReady_rngReady : (hostSetReady b s).rngReady = s.rngReady := rfl
@[simp] theorem hostSetReady_cmdIn : (hostSetReady b s).cmdIn = s.cmdIn := rfl
@[simp] theorem hostSetReady_drawIn : (hostSetReady b s).drawIn = s.drawIn := rfl
@[simp] theorem hostSetReady_responses : (hostSetReady b s).responses = s.responses := rfl
@[simp] theorem hostSetReady_drawRequests : (hostSetReady b s).drawRequests = s.drawRequests := rfl
@[simp] theorem hostSetReady_resets : (hostSetReady b s).resets = s.resets := rfl
@[simp] theorem hostSetReady_uint (j : TReg) : (hostSetReady b s).uint j = s.uint j := rfl

end hostSetReady

section hostSetReset

variable (b : Bool) (s : State)

@[simp] theorem hostSetReset_cfg : (hostSetReset b s).cfg = s.cfg := rfl
@[simp] theorem hostSetReset_current : (hostSetReset b s).current = s.current := rfl
@[simp] theorem hostSetReset_drawOffered : (hostSetReset b s).drawOffered = s.drawOffered := rfl
@[simp] theorem hostSetReset_drawPending : (hostSetReset b s).drawPending = s.drawPending := rfl
@[simp] theorem hostSetReset_offered : (hostSetReset b s).offered = s.offered := rfl
@[simp] theorem hostSetReset_rst : (hostSetReset b s).rst = b := rfl
@[simp] theorem hostSetReset_rspReady : (hostSetReset b s).rspReady = s.rspReady := rfl
@[simp] theorem hostSetReset_rngReady : (hostSetReset b s).rngReady = s.rngReady := rfl
@[simp] theorem hostSetReset_cmdIn : (hostSetReset b s).cmdIn = s.cmdIn := rfl
@[simp] theorem hostSetReset_drawIn : (hostSetReset b s).drawIn = s.drawIn := rfl
@[simp] theorem hostSetReset_responses : (hostSetReset b s).responses = s.responses := rfl
@[simp] theorem hostSetReset_drawRequests : (hostSetReset b s).drawRequests = s.drawRequests := rfl
@[simp] theorem hostSetReset_resets : (hostSetReset b s).resets = s.resets := rfl
@[simp] theorem hostSetReset_uint (j : TReg) : (hostSetReset b s).uint j = s.uint j := rfl

end hostSetReset

section backendSetReady

variable (b : Bool) (s : State)

@[simp] theorem backendSetReady_cfg : (backendSetReady b s).cfg = s.cfg := rfl
@[simp] theorem backendSetReady_current : (backendSetReady b s).current = s.current := rfl
@[simp] theorem backendSetReady_drawOffered : (backendSetReady b s).drawOffered = s.drawOffered := rfl
@[simp] theorem backendSetReady_drawPending : (backendSetReady b s).drawPending = s.drawPending := rfl
@[simp] theorem backendSetReady_offered : (backendSetReady b s).offered = s.offered := rfl
@[simp] theorem backendSetReady_rst : (backendSetReady b s).rst = s.rst := rfl
@[simp] theorem backendSetReady_rspReady : (backendSetReady b s).rspReady = s.rspReady := rfl
@[simp] theorem backendSetReady_rngReady : (backendSetReady b s).rngReady = b := rfl
@[simp] theorem backendSetReady_cmdIn : (backendSetReady b s).cmdIn = s.cmdIn := rfl
@[simp] theorem backendSetReady_drawIn : (backendSetReady b s).drawIn = s.drawIn := rfl
@[simp] theorem backendSetReady_responses : (backendSetReady b s).responses = s.responses := rfl
@[simp] theorem backendSetReady_drawRequests : (backendSetReady b s).drawRequests = s.drawRequests := rfl
@[simp] theorem backendSetReady_resets : (backendSetReady b s).resets = s.resets := rfl
@[simp] theorem backendSetReady_uint (j : TReg) : (backendSetReady b s).uint j = s.uint j := rfl

end backendSetReady

section backendAnswer

variable (x : Data) (s : State)

@[simp] theorem backendAnswer_cfg : (backendAnswer x s).cfg = s.cfg := rfl
@[simp] theorem backendAnswer_current : (backendAnswer x s).current = s.current := rfl
@[simp] theorem backendAnswer_drawOffered : (backendAnswer x s).drawOffered = s.drawOffered := rfl
@[simp] theorem backendAnswer_drawPending : (backendAnswer x s).drawPending = s.drawPending := rfl
@[simp] theorem backendAnswer_offered : (backendAnswer x s).offered = s.offered := rfl
@[simp] theorem backendAnswer_rst : (backendAnswer x s).rst = s.rst := rfl
@[simp] theorem backendAnswer_rspReady : (backendAnswer x s).rspReady = s.rspReady := rfl
@[simp] theorem backendAnswer_rngReady : (backendAnswer x s).rngReady = s.rngReady := rfl
@[simp] theorem backendAnswer_cmdIn : (backendAnswer x s).cmdIn = s.cmdIn := rfl
@[simp] theorem backendAnswer_drawIn : (backendAnswer x s).drawIn = s.drawIn ++ [x] := rfl
@[simp] theorem backendAnswer_responses : (backendAnswer x s).responses = s.responses := rfl
@[simp] theorem backendAnswer_drawRequests : (backendAnswer x s).drawRequests = s.drawRequests := rfl
@[simp] theorem backendAnswer_resets : (backendAnswer x s).resets = s.resets := rfl
@[simp] theorem backendAnswer_uint (j : TReg) : (backendAnswer x s).uint j = s.uint j := rfl

end backendAnswer

section afterDraw

variable (s : State) (req : DrawRequest) (xs : List Data)

@[simp] theorem afterDraw_cfg : (afterDraw s req xs).cfg = s.cfg := rfl
@[simp] theorem afterDraw_current : (afterDraw s req xs).current = s.current := rfl
@[simp] theorem afterDraw_drawOffered : (afterDraw s req xs).drawOffered = none := rfl
@[simp] theorem afterDraw_drawPending : (afterDraw s req xs).drawPending = none := rfl
@[simp] theorem afterDraw_offered : (afterDraw s req xs).offered = s.offered := rfl
@[simp] theorem afterDraw_rst : (afterDraw s req xs).rst = s.rst := rfl
@[simp] theorem afterDraw_rspReady : (afterDraw s req xs).rspReady = s.rspReady := rfl
@[simp] theorem afterDraw_rngReady : (afterDraw s req xs).rngReady = s.rngReady := rfl
@[simp] theorem afterDraw_cmdIn : (afterDraw s req xs).cmdIn = s.cmdIn := rfl
@[simp] theorem afterDraw_drawIn : (afterDraw s req xs).drawIn = xs := rfl
@[simp] theorem afterDraw_responses : (afterDraw s req xs).responses = s.responses := rfl
@[simp] theorem afterDraw_drawRequests : (afterDraw s req xs).drawRequests = s.drawRequests ++ [req] := rfl
@[simp] theorem afterDraw_resets : (afterDraw s req xs).resets = s.resets := rfl
@[simp] theorem afterDraw_uint (j : TReg) : (afterDraw s req xs).uint j = s.uint j := rfl

end afterDraw

section consumeDraw

variable (xs : List Data) (s : State)

@[simp] theorem consumeDraw_cfg : (consumeDraw xs s).cfg = s.cfg := rfl
@[simp] theorem consumeDraw_current : (consumeDraw xs s).current = s.current := rfl
@[simp] theorem consumeDraw_drawOffered : (consumeDraw xs s).drawOffered = none := rfl
@[simp] theorem consumeDraw_drawPending : (consumeDraw xs s).drawPending = none := rfl
@[simp] theorem consumeDraw_offered : (consumeDraw xs s).offered = s.offered := rfl
@[simp] theorem consumeDraw_rst : (consumeDraw xs s).rst = s.rst := rfl
@[simp] theorem consumeDraw_rspReady : (consumeDraw xs s).rspReady = s.rspReady := rfl
@[simp] theorem consumeDraw_rngReady : (consumeDraw xs s).rngReady = s.rngReady := rfl
@[simp] theorem consumeDraw_cmdIn : (consumeDraw xs s).cmdIn = s.cmdIn := rfl
@[simp] theorem consumeDraw_drawIn : (consumeDraw xs s).drawIn = xs := rfl
@[simp] theorem consumeDraw_responses : (consumeDraw xs s).responses = s.responses := rfl
@[simp] theorem consumeDraw_drawRequests : (consumeDraw xs s).drawRequests = s.drawRequests := rfl
@[simp] theorem consumeDraw_resets : (consumeDraw xs s).resets = s.resets := rfl
@[simp] theorem consumeDraw_uint (j : TReg) : (consumeDraw xs s).uint j = s.uint j := rfl

end consumeDraw

section withRng

variable (s : State) (b : Bool)

@[simp] theorem withRng_current : (s.withRng b).current = s.current := rfl
@[simp] theorem withRng_drawOffered : (s.withRng b).drawOffered = s.drawOffered := rfl
@[simp] theorem withRng_drawPending : (s.withRng b).drawPending = s.drawPending := rfl
@[simp] theorem withRng_offered : (s.withRng b).offered = s.offered := rfl
@[simp] theorem withRng_rst : (s.withRng b).rst = s.rst := rfl
@[simp] theorem withRng_rspReady : (s.withRng b).rspReady = s.rspReady := rfl
@[simp] theorem withRng_rngReady : (s.withRng b).rngReady = s.rngReady := rfl
@[simp] theorem withRng_cmdIn : (s.withRng b).cmdIn = s.cmdIn := rfl
@[simp] theorem withRng_drawIn : (s.withRng b).drawIn = s.drawIn := rfl
@[simp] theorem withRng_responses : (s.withRng b).responses = s.responses := rfl
@[simp] theorem withRng_drawRequests : (s.withRng b).drawRequests = s.drawRequests := rfl
@[simp] theorem withRng_resets : (s.withRng b).resets = s.resets := rfl
@[simp] theorem withRng_w : (s.withRng b).cfg.w = s.cfg.w := rfl
@[simp] theorem withRng_hasRng : (s.withRng b).cfg.hasRng = b := rfl
@[simp] theorem withRng_uint (j : TReg) : (s.withRng b).uint j = s.uint j := rfl

end withRng

/-! ## Register reads after a register write -/

@[simp] theorem torus_writeTorus_self (s : State) (i : TReg) (v : BitVec s.cfg.w) : (s.writeTorus i v).torus i = v := by
  simp [State.torus, State.writeTorus]

theorem torus_writeTorus_of_ne (s : State) {i j : TReg} (v : BitVec s.cfg.w) (h : j ≠ i) :
    (s.writeTorus i v).torus j = s.torus j := by
  have : (i : Nat) ≠ j := fun e => h (Fin.ext e.symm)
  simpa [State.torus, State.writeTorus] using Vector.getElem_set_ne i.isLt j.isLt this

@[simp] theorem writeTorus_uint_self (s : State) (i : TReg) (v : BitVec s.cfg.w) :
    (s.writeTorus i v).uint i = v.toNat :=
  congrArg BitVec.toNat (torus_writeTorus_self s i v)

theorem writeTorus_uint_of_ne (s : State) {i j : TReg} (v : BitVec s.cfg.w) (h : j ≠ i) :
    (s.writeTorus i v).uint j = s.uint j :=
  congrArg BitVec.toNat (torus_writeTorus_of_ne s v h)

@[simp] theorem finish_uint_self (s : State) (rd : TReg) (v : BitVec s.cfg.w) : (finish s rd v).uint rd = v.toNat :=
  writeTorus_uint_self s rd v

theorem finish_uint_of_ne (s : State) {rd j : TReg} (v : BitVec s.cfg.w) (h : j ≠ rd) :
    (finish s rd v).uint j = s.uint j :=
  writeTorus_uint_of_ne s v h

theorem uint_lt (s : State) (i : TReg) : s.uint i < 2 ^ s.cfg.w := (s.torus i).isLt

end Sys2Proof.Machine
end

