-- ==== Sys2Proof/Laws/Ops.lean ====
section
/-! SUPPORT. For each shared operation, what it can do. -/

namespace Sys2Proof.Machine

/-- `trunc_W(x)` is `x mod 2^W` (R10). -/
theorem trunc_toNat (w : Nat) (x : Int) : ((trunc w x).toNat : Int) = x % 2 ^ w := by
  have h : (0 : Int) ≤ x % 2 ^ w := Int.emod_nonneg _ (by positivity)
  simp [trunc, BitVec.toNat_ofInt, Int.toNat_of_nonneg h]

theorem trunc_toNat' (w : Nat) (x : Int) : (trunc w x).toNat = (x % 2 ^ w).toNat := by
  rw [← trunc_toNat]; simp

theorem trunc_congr {w : Nat} {x y : Int} (h : x % 2 ^ w = y % 2 ^ w) : trunc w x = trunc w y := by
  apply BitVec.eq_of_toNat_eq
  rw [trunc_toNat', trunc_toNat', h]

theorem zext64_eq (s : State) (v : BitVec s.cfg.w) : zext64 v = BitVec.ofNat 64 v.toNat := by
  apply BitVec.eq_of_toNat_eq; simp [zext64]

/-- What a register-writing command does when it completes (R21, R54). -/
theorem finish_writesOnly (s : State) (rd : TReg) (v : BitVec s.cfg.w) : WritesOnly s (finish s rd v) rd v.toNat :=
  ⟨finish_uint_self s rd v, v.isLt, fun _ h => finish_uint_of_ne s v h, by simp [zext64_eq],
    rfl, rfl, rfl, rfl, rfl, rfl, rfl, rfl, rfl, rfl, rfl, rfl⟩

/-- A first request is transferred when the backend takes it (R50). -/
theorem requestDraw_of_ready {s : State} (k : DrawKind) (sigma : Data) (hp : s.drawPending = none)
    (hy : s.rngReady = true) :
    requestDraw k sigma s =
      { s with
        drawOffered := none, drawPending := some ⟨k, sigma⟩, drawRequests := s.drawRequests ++ [⟨k, sigma⟩] } := by
  simp [requestDraw, hp, hy]

/-- A request that the backend does not take stays offered (R50). -/
theorem requestDraw_of_not_ready {s : State} (k : DrawKind) (sigma : Data) (hp : s.drawPending = none)
    (hy : s.rngReady = false) : requestDraw k sigma s = { s with drawOffered := some ⟨k, sigma⟩ } := by
  simp [requestDraw, hp, hy]

/-- A transferred request is not sent again (R46). -/
theorem requestDraw_of_some {s : State} (k : DrawKind) (sigma : Data) {req : DrawRequest}
    (h : s.drawPending = some req) : requestDraw k sigma s = s := by
  simp [requestDraw, h]

@[simp] theorem requestDraw_cfg (k : DrawKind) (sigma : Data) (s : State) : (requestDraw k sigma s).cfg = s.cfg := by
  unfold requestDraw; split <;> [rfl; split] <;> rfl
@[simp] theorem requestDraw_current (k : DrawKind) (sigma : Data) (s : State) :
    (requestDraw k sigma s).current = s.current := by unfold requestDraw; split <;> [rfl; split] <;> rfl
@[simp] theorem requestDraw_offered (k : DrawKind) (sigma : Data) (s : State) :
    (requestDraw k sigma s).offered = s.offered := by unfold requestDraw; split <;> [rfl; split] <;> rfl
@[simp] theorem requestDraw_rst (k : DrawKind) (sigma : Data) (s : State) : (requestDraw k sigma s).rst = s.rst := by
  unfold requestDraw; split <;> [rfl; split] <;> rfl
@[simp] theorem requestDraw_rspReady (k : DrawKind) (sigma : Data) (s : State) :
    (requestDraw k sigma s).rspReady = s.rspReady := by unfold requestDraw; split <;> [rfl; split] <;> rfl
@[simp] theorem requestDraw_rngReady (k : DrawKind) (sigma : Data) (s : State) :
    (requestDraw k sigma s).rngReady = s.rngReady := by unfold requestDraw; split <;> [rfl; split] <;> rfl
@[simp] theorem requestDraw_cmdIn (k : DrawKind) (sigma : Data) (s : State) :
    (requestDraw k sigma s).cmdIn = s.cmdIn := by unfold requestDraw; split <;> [rfl; split] <;> rfl
@[simp] theorem requestDraw_drawIn (k : DrawKind) (sigma : Data) (s : State) :
    (requestDraw k sigma s).drawIn = s.drawIn := by unfold requestDraw; split <;> [rfl; split] <;> rfl
@[simp] theorem requestDraw_drawPending (k : DrawKind) (sigma : Data) (s : State) :
    (requestDraw k sigma s).drawPending =
      if s.drawPending.isSome then s.drawPending else if s.rngReady then some ⟨k, sigma⟩ else none := by
  unfold requestDraw; split <;> [skip; split] <;> simp [*]
@[simp] theorem requestDraw_drawOffered (k : DrawKind) (sigma : Data) (s : State) :
    (requestDraw k sigma s).drawOffered =
      if s.drawPending.isSome then s.drawOffered else if s.rngReady then none else some ⟨k, sigma⟩ := by
  unfold requestDraw; split <;> [skip; split] <;> simp [*]
@[simp] theorem requestDraw_drawRequests (k : DrawKind) (sigma : Data) (s : State) :
    (requestDraw k sigma s).drawRequests =
      if s.drawPending = none ∧ s.rngReady = true then s.drawRequests ++ [⟨k, sigma⟩] else s.drawRequests := by
  unfold requestDraw; split <;> [skip; split] <;> simp [*]
@[simp] theorem requestDraw_responses (k : DrawKind) (sigma : Data) (s : State) :
    (requestDraw k sigma s).responses = s.responses := by unfold requestDraw; split <;> [rfl; split] <;> rfl
@[simp] theorem requestDraw_resets (k : DrawKind) (sigma : Data) (s : State) :
    (requestDraw k sigma s).resets = s.resets := by unfold requestDraw; split <;> [rfl; split] <;> rfl
@[simp] theorem requestDraw_uint (k : DrawKind) (sigma : Data) (s : State) (j : TReg) :
    (requestDraw k sigma s).uint j = s.uint j := by unfold requestDraw; split <;> [rfl; split] <;> rfl

/-- A sampling command whose request has been transferred, or is now, goes on with the answer at hand (R106). -/
theorem rngDraw_of_answer (k : DrawKind) (sigma : Data) {s : State} (rest : State → Data → State) {x : Data}
    {xs : List Data} (hy : s.drawPending ≠ none ∨ s.rngReady = true) (h : s.drawIn = x :: xs) :
    rngDraw k sigma s rest = rest (consumeDraw xs (requestDraw k sigma s)) x := by
  have hd : (requestDraw k sigma s).drawIn = x :: xs := by simp [h]
  obtain ⟨req, hp⟩ : ∃ req, (requestDraw k sigma s).drawPending = some req := by
    rw [requestDraw_drawPending]
    cases hs : s.drawPending with
    | some req => exact ⟨req, rfl⟩
    | none => rcases hy with hy | hy <;> [exact absurd hs hy; simp [hy]]
  simp only [rngDraw, hd, hp]

/-- A sampling command without an answer, or whose request the backend has not taken, waits (R50, R146). -/
theorem rngDraw_of_wait (k : DrawKind) (sigma : Data) {s : State} (rest : State → Data → State)
    (h : s.drawIn = [] ∨ s.drawPending = none ∧ s.rngReady = false) :
    rngDraw k sigma s rest = requestDraw k sigma s := by
  simp only [rngDraw]
  split
  · next req x xs hp hd =>
    rcases h with h | ⟨h, hy⟩
    · simp [h] at hd
    · simp [h, hy] at hp
  · rfl
  · rfl

/-- The state a first request leaves once it is transferred and its answer is consumed. -/
theorem consumed_of_ready (k : DrawKind) (sigma : Data) {s : State} (xs : List Data) (hp : s.drawPending = none)
    (hy : s.rngReady = true) : consumeDraw xs (requestDraw k sigma s) = afterDraw s ⟨k, sigma⟩ xs := by
  rw [requestDraw_of_ready k sigma hp hy]; rfl

theorem encodeReal_of_finite (rd : TReg) (s : State) {f : Data} (h : ffinite f = true) :
    encodeReal rd s f = finish s rd (fromReal s.cfg.w f) := by simp [encodeReal, h]

theorem encodeReal_of_not_finite (rd : TReg) (s : State) {f : Data} (h : ffinite f = false) :
    encodeReal rd s f = raise .invalidInput s := by simp [encodeReal, h]

/-- The response transfer does exactly what the response channel allows (R50, R145). -/
theorem deliver_delivered (t : State) : Delivered t (deliver t) := by
  refine ⟨fun r hr hy => by simp [deliver, hr, hy], fun h => ?_⟩
  unfold deliver
  split
  · rfl
  · next r hr => rcases h with h | h <;> simp_all

theorem deliver_of_none {s : State} (h : s.offered = none) : deliver s = s := by simp [deliver, h]

/-- `deliver` leaves the registers, the parameters and the ports' inputs alone. -/
@[simp] theorem deliver_cfg (s : State) : (deliver s).cfg = s.cfg := by unfold deliver; split <;> [rfl; split] <;> rfl
@[simp] theorem deliver_uint (s : State) (j : TReg) : (deliver s).uint j = s.uint j := by
  unfold deliver; split <;> [rfl; split] <;> rfl
@[simp] theorem deliver_cmdIn (s : State) : (deliver s).cmdIn = s.cmdIn := by
  unfold deliver; split <;> [rfl; split] <;> rfl
@[simp] theorem deliver_drawPending (s : State) : (deliver s).drawPending = s.drawPending := by
  unfold deliver; split <;> [rfl; split] <;> rfl
@[simp] theorem deliver_drawOffered (s : State) : (deliver s).drawOffered = s.drawOffered := by
  unfold deliver; split <;> [rfl; split] <;> rfl
@[simp] theorem deliver_rngReady (s : State) : (deliver s).rngReady = s.rngReady := by
  unfold deliver; split <;> [rfl; split] <;> rfl
@[simp] theorem deliver_drawIn (s : State) : (deliver s).drawIn = s.drawIn := by
  unfold deliver; split <;> [rfl; split] <;> rfl
@[simp] theorem deliver_drawRequests (s : State) : (deliver s).drawRequests = s.drawRequests := by
  unfold deliver; split <;> [rfl; split] <;> rfl
@[simp] theorem deliver_rst (s : State) : (deliver s).rst = s.rst := by unfold deliver; split <;> [rfl; split] <;> rfl

end Sys2Proof.Machine
end

