-- ==== Sys2Proof/Laws/PerInstr.lean ====
section
/-! SUPPORT. The statements about every command as syntax, one lemma per constructor. -/

namespace Sys2Proof.Laws

/-- The encoder's word lies in the command's row of the opcode table (R57): `CMD & mask = match`. -/
def WordMatchesRow.Statement (i : Instr) : Prop := (encode i).cmd &&& i.row.2 = i.row.1

theorem WordMatchesRow.fromraw (rd : TReg) (data : Data) : WordMatchesRow.Statement (.fromraw rd data) := by
  simp only [WordMatchesRow.Statement, encode, Instr.row]; revert rd; decide

theorem WordMatchesRow.fromreal (rd : TReg) (f : Data) : WordMatchesRow.Statement (.fromreal rd f) := by
  simp only [WordMatchesRow.Statement, encode, Instr.row]; revert rd; decide

theorem WordMatchesRow.toraw (rs1 : TReg) : WordMatchesRow.Statement (.toraw rs1) := by
  simp only [WordMatchesRow.Statement, encode, Instr.row]; revert rs1; decide

theorem WordMatchesRow.toreal (rs1 : TReg) : WordMatchesRow.Statement (.toreal rs1) := by
  simp only [WordMatchesRow.Statement, encode, Instr.row]; revert rs1; decide

theorem WordMatchesRow.sign (rs1 : TReg) : WordMatchesRow.Statement (.sign rs1) := by
  simp only [WordMatchesRow.Statement, encode, Instr.row]; revert rs1; decide

theorem WordMatchesRow.add (rd rs1 rs2 : TReg) : WordMatchesRow.Statement (.add rd rs1 rs2) := by
  simp only [WordMatchesRow.Statement, encode, Instr.row]; revert rd rs1 rs2; decide

theorem WordMatchesRow.sub (rd rs1 rs2 : TReg) : WordMatchesRow.Statement (.sub rd rs1 rs2) := by
  simp only [WordMatchesRow.Statement, encode, Instr.row]; revert rd rs1 rs2; decide

theorem WordMatchesRow.neg (rd rs1 : TReg) : WordMatchesRow.Statement (.neg rd rs1) := by
  simp only [WordMatchesRow.Statement, encode, Instr.row]; revert rd rs1; decide

theorem WordMatchesRow.muli (rd rs1 : TReg) (k : BitVec 32) : WordMatchesRow.Statement (.muli rd rs1 k) := by
  simp only [WordMatchesRow.Statement, encode, Instr.row]; revert rd rs1; decide

theorem WordMatchesRow.mulr (rd rs1 : TReg) (k : Data) : WordMatchesRow.Statement (.mulr rd rs1 k) := by
  simp only [WordMatchesRow.Statement, encode, Instr.row]; revert rd rs1; decide

theorem WordMatchesRow.uniform (rd : TReg) : WordMatchesRow.Statement (.uniform rd) := by
  simp only [WordMatchesRow.Statement, encode, Instr.row]; revert rd; decide

theorem WordMatchesRow.normal (rd : TReg) (sigma : Data) : WordMatchesRow.Statement (.normal rd sigma) := by
  simp only [WordMatchesRow.Statement, encode, Instr.row]; revert rd; decide

end Sys2Proof.Laws
end

