-- ==== Sys2Proof/Laws/Step.lean ====
section
/-! SUPPORT. What a step and a meaning can do. -/

namespace Sys2Proof.Machine

/-- A draw waits, or the backend's answer to a transferred request is at hand. -/
theorem waits_or_answered (s : State) :
    (s.drawIn = [] ∨ s.drawPending = none ∧ s.rngReady = false) ∨
      ∃ x xs, s.drawIn = x :: xs ∧ (s.drawPending ≠ none ∨ s.rngReady = true) := by
  cases hd : s.drawIn <;> cases hp : s.drawPending <;> cases hy : s.rngReady <;> simp

/-- What the meaning of a command can do: write its destination and answer OK; answer OK and write nothing; answer an
error; and for a sampling command, wait for its request to be taken or answered, or consume one answer and then do one
of these. -/
theorem exec_cases {i : Instr} {s t : State} (h : exec i s = .next t) :
    (∃ rd v, i.samples = false ∧ i.dest = some rd ∧ t = finish s rd v) ∨
    (∃ d, i.samples = false ∧ i.dest = none ∧ t = respond .ok d s) ∨
    (i.samples = false ∧ t = raise .invalidInput s) ∨
    (i.samples = true ∧ s.cfg.hasRng = false ∧ t = raise .illegalCmd s) ∨
    (s.cfg.hasRng = true ∧ t = raise .invalidParam s ∧ ∃ rd sd, i = .normal rd sd ∧ sigmaValid sd = false) ∨
    (∃ req, i.samples = true ∧ s.cfg.hasRng = true ∧ drawOf i = some req ∧
      (((s.drawIn = [] ∨ s.drawPending = none ∧ s.rngReady = false) ∧ t = requestDraw req.kind req.sigma s) ∨
        ∃ x xs, s.drawIn = x :: xs ∧ (s.drawPending ≠ none ∨ s.rngReady = true) ∧
          ((∃ rd v, i.dest = some rd ∧ t = finish (consumeDraw xs (requestDraw req.kind req.sigma s)) rd v) ∨
            (t = raise .invalidInput (consumeDraw xs (requestDraw req.kind req.sigma s)) ∧
              ∃ rd sd, i = .normal rd sd ∧ sigmaValid sd = true ∧ ffinite x = false)))) := by
  cases i with
  | fromraw rd d => cases h; exact .inl ⟨rd, _, rfl, rfl, rfl⟩
  | fromreal rd f =>
    cases hf : ffinite f
    · cases h; exact .inr (.inr (.inl ⟨rfl, encodeReal_of_not_finite rd s hf⟩))
    · cases h; exact .inl ⟨rd, _, rfl, rfl, encodeReal_of_finite rd s hf⟩
  | toraw a => cases h; exact .inr (.inl ⟨_, rfl, rfl, rfl⟩)
  | toreal a => cases h; exact .inr (.inl ⟨_, rfl, rfl, rfl⟩)
  | sign a => cases h; exact .inr (.inl ⟨_, rfl, rfl, rfl⟩)
  | add rd a b => cases h; exact .inl ⟨rd, _, rfl, rfl, rfl⟩
  | sub rd a b => cases h; exact .inl ⟨rd, _, rfl, rfl, rfl⟩
  | neg rd a => cases h; exact .inl ⟨rd, _, rfl, rfl, rfl⟩
  | muli rd a k => cases h; exact .inl ⟨rd, _, rfl, rfl, rfl⟩
  | mulr rd a k =>
    cases hf : ffinite k
    · simp only [exec, execMulr, hf] at h; cases h; exact .inr (.inr (.inl ⟨rfl, rfl⟩))
    · simp only [exec, execMulr, hf] at h; cases h; exact .inl ⟨rd, _, rfl, rfl, rfl⟩
  | uniform rd =>
    cases hr : s.cfg.hasRng
    · simp only [exec, execUniform, hr] at h; cases h; exact .inr (.inr (.inr (.inl ⟨rfl, rfl, rfl⟩)))
    · simp only [exec, execUniform, hr, if_true] at h
      refine .inr (.inr (.inr (.inr (.inr ⟨⟨.bits, 0⟩, rfl, rfl, rfl, ?_⟩))))
      rcases waits_or_answered s with hw | ⟨x, xs, hd, hy⟩
      · rw [rngDraw_of_wait _ _ _ hw] at h; cases h; exact .inl ⟨hw, rfl⟩
      · rw [rngDraw_of_answer _ _ _ hy hd] at h; cases h; exact .inr ⟨x, xs, hd, hy, .inl ⟨rd, _, rfl, rfl⟩⟩
  | normal rd sd =>
    cases hr : s.cfg.hasRng
    · simp only [exec, execNormal, hr] at h; cases h; exact .inr (.inr (.inr (.inl ⟨rfl, rfl, rfl⟩)))
    · cases hv : sigmaValid sd
      · simp only [exec, execNormal, hr, hv, if_true] at h
        cases h; exact .inr (.inr (.inr (.inr (.inl ⟨rfl, rfl, rd, sd, rfl, hv⟩))))
      · simp only [exec, execNormal, hr, hv, if_true] at h
        refine .inr (.inr (.inr (.inr (.inr ⟨⟨.gauss, sd⟩, rfl, rfl, by simp [drawOf, hv], ?_⟩))))
        rcases waits_or_answered s with hw | ⟨x, xs, hd, hy⟩
        · rw [rngDraw_of_wait _ _ _ hw] at h; cases h; exact .inl ⟨hw, rfl⟩
        · rw [rngDraw_of_answer _ _ _ hy hd] at h; cases h
          refine .inr ⟨x, xs, hd, hy, ?_⟩
          by_cases hx : ffinite x = true
          · exact .inl ⟨rd, _, rfl, encodeReal_of_finite _ _ hx⟩
          · exact .inr ⟨encodeReal_of_not_finite _ _ (by simpa using hx), rd, sd, rfl, hv, by simpa using hx⟩

/-- What running a held command can do (R58). -/
theorem runCommand_cases {c : Command} {s t : State} (h : runCommand c s = .next t) :
    ((∃ e, decode c = .error e) ∧ t = deliver (raise .illegalCmd s)) ∨
    ∃ i u, decode c = .ok i ∧ exec i s = .next u ∧ t = deliver u := by
  unfold runCommand at h
  split at h
  · next e he => cases h; exact .inl ⟨⟨e, he⟩, rfl⟩
  · next i hi =>
    split at h <;> cases h
    next u hu => exact .inr ⟨i, u, hi, hu, rfl⟩

/-- What a step can do: reset, transfer the offered response, go on with the command in execution, stay idle, or take
and run the next command. -/
theorem step_cases {s t : State} (h : step s = .next t) :
    (s.rst = true ∧ t = applyReset s) ∨
    (s.rst = false ∧ (∃ r, s.offered = some r) ∧ t = deliver s) ∨
    (s.rst = false ∧ s.offered = none ∧ ∃ c, s.current = some c ∧ runCommand c s = .next t) ∨
    (s.rst = false ∧ s.offered = none ∧ s.current = none ∧ s.cmdIn = [] ∧ t = s) ∨
    (s.rst = false ∧ s.offered = none ∧ s.current = none ∧
      ∃ c rest, s.cmdIn = c :: rest ∧ runCommand c (accept c rest s) = .next t) := by
  unfold step cycle at h
  split at h
  · next hr => cases h; exact .inl ⟨hr, rfl⟩
  · next hr =>
    have hr : s.rst = false := by simpa using hr
    split at h
    · next r ho => cases h; exact .inr (.inl ⟨hr, ⟨r, ho⟩, rfl⟩)
    · next ho =>
      split at h
      · next c hc => exact .inr (.inr (.inl ⟨hr, ho, c, hc, h⟩))
      · next hc =>
        split at h
        · next hi => cases h; exact .inr (.inr (.inr (.inl ⟨hr, ho, hc, hi, rfl⟩)))
        · next c rest hi => exact .inr (.inr (.inr (.inr ⟨hr, ho, hc, c, rest, hi, h⟩)))

/-- A coherent state is idle, or holds a command with its response, or a sampling command with its request offered or
outstanding. -/
theorem coherent_cases {s : State} (h : Coherent s) :
    (s.current = none ∧ s.offered = none ∧ s.drawOffered = none ∧ s.drawPending = none) ∨
    (∃ c r, s.current = some c ∧ s.offered = some r ∧ s.drawOffered = none ∧ s.drawPending = none) ∨
    ∃ c i req, s.current = some c ∧ s.offered = none ∧ s.cfg.hasRng = true ∧ decode c = .ok i ∧ drawOf i = some req ∧
      (s.drawOffered = some req ∧ s.drawPending = none ∨ s.drawOffered = none ∧ s.drawPending = some req) := by
  unfold Coherent at h
  cases hc : s.current <;> cases ho : s.offered <;> cases hd : s.drawOffered <;> cases hp : s.drawPending <;>
    simp_all

theorem commandToRun_of_offered {s : State} {r : Response} (h : s.offered = some r) : s.commandToRun = none := by
  simp [State.commandToRun, h]

theorem commandToRun_of_current {s : State} {c : Command} (ho : s.offered = none) (hc : s.current = some c) :
    s.commandToRun = some c := by
  simp [State.commandToRun, ho, hc]

theorem commandToRun_of_idle {s : State} (ho : s.offered = none) (hc : s.current = none) :
    s.commandToRun = s.cmdIn.head? := by
  simp [State.commandToRun, ho, hc]

/-- An idle machine takes and runs the first offered command. -/
theorem step_of_offered_command {s : State} {c : Command} {rest : List Command} (hr : s.rst = false)
    (ho : s.offered = none) (hc : s.current = none) (hi : s.cmdIn = c :: rest) :
    step s = runCommand c (accept c rest s) := by
  simp [step, cycle, hr, ho, hc, hi]

/-- A machine with a command in execution goes on with it. -/
theorem step_of_current {s : State} {c : Command} (hr : s.rst = false) (ho : s.offered = none)
    (hc : s.current = some c) : step s = runCommand c s := by
  simp [step, cycle, hr, ho, hc]

theorem runCommand_of_exec {c : Command} {i : Instr} {s t : State} (hd : decode c = .ok i)
    (h : exec i s = .next t) : runCommand c s = .next (deliver t) := by
  simp [runCommand, hd, h]

theorem runCommand_of_illegal {c : Command} {e : DecodeError} (s : State) (hd : decode c = .error e) :
    runCommand c s = .next (deliver (raise .illegalCmd s)) := by
  simp [runCommand, hd]

end Sys2Proof.Machine
end

