-- ==== Sys2Proof/WellFormed.lean ====
section
/-! DEFINITION. When a command is one that an instance has and the assembler of R63 can write. The machine itself
runs every command word (an illegal one is answered, R118; surplus `DATA` bits are ignored, R52), so no meaning rests
on these checks. -/

namespace Sys2Proof

/-- The instance has the command: UNIFORM and NORMAL exist only with `HAS_RNG = 1` (R60, R105). -/
def Instr.availableIn (p : Params) : Instr → Bool
  | .uniform _ => p.hasRng
  | .normal _ _ => p.hasRng
  | .fromraw _ _ | .fromreal _ _ | .toraw _ | .toreal _ | .sign _ | .add _ _ _ | .sub _ _ _ | .neg _ _
  | .muli _ _ _ | .mulr _ _ _ => true

/-- The assembler can write the operand: a raw immediate `#u` has `0 <= u < 2^W` (R63). -/
def Instr.operandFits (p : Params) : Instr → Bool
  | .fromraw _ d => decide (d.toNat < 2 ^ p.w)
  | .fromreal _ _ | .toraw _ | .toreal _ | .sign _ | .add _ _ _ | .sub _ _ _ | .neg _ _ | .muli _ _ _
  | .mulr _ _ _ | .uniform _ | .normal _ _ => true

/-- A command of the instance as the assembler writes it (R60, R63). -/
def Instr.wellFormed (p : Params) (i : Instr) : Bool := i.availableIn p && i.operandFits p

end Sys2Proof
end

