-- ==== Sys2Proof/Tests/Slice0.lean ====
section
/-! SUPPORT. Checks of the model against 95_test_vectors.md, and a witness for the hypotheses of every statement.
Every expected value is the spec's, from the section named beside it. -/

namespace Sys2Proof.Tests

open Sys2Proof.Machine

/-- An instance with nothing to do, `T1 = a`, `T2 = b`, the other registers 0, the backend's next answers `xs`. -/
def unit (p : Params) (a b : Nat) (xs : List Data := []) : State :=
  { State.resetWith p with
    regs := #v[0, BitVec.ofNat p.w a, BitVec.ofNat p.w b, 0, 0, 0, 0, 0], drawIn := xs }

/-- An instance without the random-source port. -/
def noRng : Params := ⟨16, false, by decide, by decide⟩

/-- A one-bit torus. -/
def oneBit : Params := ⟨1, true, by decide, by decide⟩

/-- The state one step later, when the host offers `c`. -/
def after (c : Command) (s : State) : Option State :=
  match step (hostSend c s) with
  | .next t => some t
  | .fault _ => none
  | .refused _ => none

/-- Register `r` and the responses one step later. -/
def run (c : Command) (s : State) (r : TReg) : Option (Nat × List Response) :=
  (after c s).map fun t => (t.uint r, t.responses)

/-! ## Well-formedness -/

theorem test_wf_refuses_uniform_without_rng : Instr.wellFormed noRng (.uniform 1) = false := by decide
theorem test_wf_refuses_normal_without_rng : Instr.wellFormed noRng (.normal 7 0) = false := by decide
theorem test_wf_refuses_wide_raw : Instr.wellFormed .standard (.fromraw 1 0x10000) = false := by decide
theorem test_wf_accepts_widest_raw : Instr.wellFormed .standard (.fromraw 1 0xFFFF) = true := by decide
theorem test_wf_accepts_uniform_with_rng : Instr.wellFormed .standard (.uniform 1) = true := by decide
theorem test_params_refuse_zero_width (p : Params) : p.w ≠ 0 := by have := p.wPos; omega
theorem test_params_refuse_wide_width (p : Params) : p.w ≠ 33 := by have := p.wMax; omega

/-! ## Decoding: words of section 2.9, written out from R57 -/

theorem test_decode_fromraw : decode ⟨0b0001_010_000_000_000, 0x8000⟩ = .ok (.fromraw 2 0x8000) := by decide
theorem test_decode_fromreal : decode ⟨0b0010_111_000_000_000, 5⟩ = .ok (.fromreal 7 5) := by decide
theorem test_decode_toraw : decode ⟨0b0011_000_111_000_000, 9⟩ = .ok (.toraw 7) := by decide
theorem test_decode_toreal : decode ⟨0b0100_000_000_000_000, 9⟩ = .ok (.toreal 0) := by decide
theorem test_decode_sign : decode ⟨0b0101_000_100_000_000, 9⟩ = .ok (.sign 4) := by decide
theorem test_decode_add : decode ⟨0b0110_011_001_010_000, 9⟩ = .ok (.add 3 1 2) := by decide
theorem test_decode_sub : decode ⟨0b0111_101_011_100_000, 9⟩ = .ok (.sub 5 3 4) := by decide
theorem test_decode_neg : decode ⟨0b1000_100_011_000_000, 9⟩ = .ok (.neg 4 3) := by decide
theorem test_decode_muli :
    decode ⟨0b1001_101_011_000_000, 0xFFFFFFFF00000002⟩ = .ok (.muli 5 3 2) := by decide
theorem test_decode_mulr : decode ⟨0b1010_110_011_000_000, 5⟩ = .ok (.mulr 6 3 5) := by decide
theorem test_decode_uniform : decode ⟨0b1011_001_000_000_000, 9⟩ = .ok (.uniform 1) := by decide
theorem test_decode_normal : decode ⟨0b1100_111_000_000_000, 5⟩ = .ok (.normal 7 5) := by decide
theorem test_decode_reserved_op :
    [0x0000, 0x0E00, 0xD000, 0xE248, 0xFFFF].all (fun w => decide (decode ⟨w, 0⟩ = .error .reservedOp)) = true := by
  decide
theorem test_decode_nonzero_z :
    [0x6201, 0x6004, 0x2207].all (fun w => decide (decode ⟨w, 0⟩ = .error .nonzeroZ)) = true := by decide
theorem test_decode_nonzero_unused :
    [0x1040, 0x1008, 0x3600].all (fun w => decide (decode ⟨w, 0⟩ = .error .nonzeroUnusedField)) = true := by decide

/-- The text forms of R63. -/
theorem test_asm :
    Instr.asm (.add 3 1 2) = "ADD T3, T1, T2" ∧ Instr.asm (.muli 5 3 0xFFFFFFFD) = "MULI T5, T3, #-3" ∧
    Instr.asm (.mulr 6 3 0x3FE0000000000000) = "MULR T6, T3, #f64:0x3fe0000000000000" := by decide +kernel

/-- The expansions of R64. -/
theorem test_pseudo :
    (Pseudo.addInto 1 2).expand = .add 1 1 2 ∧ (Pseudo.muliSwapped 5 3 2).expand = .muli 5 2 3 := by decide

/-- The codes of R53 and R55. -/
theorem test_codes :
    [Status.ok, .invalidInput, .invalidParam, .illegalCmd].map Status.code = [0, 1, 2, 3] ∧
    [DrawKind.bits, .gauss].map DrawKind.code = [0, 1] := by decide

/-! ## One step of each command -/

/-- Section 2.1, row 4. -/
theorem test_fromraw_ignores_high_data :
    run ⟨0x1000, 0xFFFFFFFFFFFF1234⟩ (unit .standard 1 2) 0 = some (0x1234, [⟨.ok, 0x1234⟩]) := by decide
/-- Section 2.1, row 7. -/
theorem test_fromraw_wide :
    run ⟨0x1A00, 0xFFFFFFFFFFFFFFFF⟩ (unit .wide 1 2) 5 = some (0xFFFFFFFF, [⟨.ok, 0xFFFFFFFF⟩]) := by decide
/-- Section 2.2: -0.3, off the grid and negative. -/
theorem test_fromreal_negative :
    run ⟨0x2000, 0xBFD3333333333333⟩ (unit .standard 1 2) 0 = some (0xB333, [⟨.ok, 0xB333⟩]) := by decide
/-- Section 2.2, error rows: a signalling NaN; T1 keeps its content. -/
theorem test_fromreal_nan :
    run ⟨0x2200, 0x7FF0000000000001⟩ (unit .standard 0x1234 2) 1 = some (0x1234, [⟨.invalidInput, 0⟩]) := by decide
/-- Section 2.1: T5 = 028F. -/
theorem test_toraw : run ⟨0x3040, 0xAAAAAAAAAAAAAAAA⟩ (unit .standard 0x028F 2) 1 =
    some (0x028F, [⟨.ok, 0x028F⟩]) := by decide
/-- Section 2.3. -/
theorem test_toreal :
    run ⟨0x4040, 0⟩ (unit .standard 0x028F 2) 1 = some (0x028F, [⟨.ok, 0x3F84780000000000⟩]) := by decide
/-- Section 2.3: zero and all ones at W = 32. -/
theorem test_toreal_corners :
    run ⟨0x4040, 0⟩ (unit .wide 0xFFFFFFFF 0) 1 = some (0xFFFFFFFF, [⟨.ok, 0x3FEFFFFFFFE00000⟩]) ∧
    run ⟨0x4080, 0⟩ (unit .wide 0xFFFFFFFF 0) 2 = some (0, [⟨.ok, 0⟩]) := by decide
/-- Section 2.7: the midpoint and the value below it. -/
theorem test_sign_midpoint :
    run ⟨0x5040, 0⟩ (unit .standard 0x8000 0x7FFF) 1 = some (0x8000, [⟨.ok, 0xFFFFFFFFFFFFFFFF⟩]) ∧
    run ⟨0x5080, 0⟩ (unit .standard 0x8000 0x7FFF) 2 = some (0x7FFF, [⟨.ok, 1⟩]) := by decide
/-- Section 2.7: W = 1. -/
theorem test_sign_one_bit : run ⟨0x5040, 0⟩ (unit oneBit 1 0) 1 = some (1, [⟨.ok, 0xFFFFFFFFFFFFFFFF⟩]) := by decide
/-- Section 2.4, row 2. -/
theorem test_add_wraps :
    run ⟨0x6650, 0⟩ (unit .standard 0xFFFF 1) 3 = some (0, [⟨.ok, 0⟩]) := by decide
/-- Section 2.4: ADD T1, T1, T1 with T1 = 4000. -/
theorem test_add_same_register :
    run ⟨0x6248, 0⟩ (unit .standard 0x4000 1) 1 = some (0x8000, [⟨.ok, 0x8000⟩]) := by decide
/-- Section 2.4, row 8: T3 := T1 - T2. -/
theorem test_sub_order :
    run ⟨0x7650, 0⟩ (unit .standard 0x8000 0x828F) 3 = some (0xFD71, [⟨.ok, 0xFD71⟩]) := by decide
/-- Section 2.4: 0 and 1234. -/
theorem test_neg :
    run ⟨0x8640, 0⟩ (unit .standard 0x1234 0) 3 = some (0xEDCC, [⟨.ok, 0xEDCC⟩]) ∧
    run ⟨0x8680, 0⟩ (unit .standard 0x1234 0) 3 = some (0, [⟨.ok, 0⟩]) := by decide
/-- Section 2.5: -3 at W = 32. -/
theorem test_muli_negative :
    run ⟨0x9640, 0xFFFFFFFD⟩ (unit .wide 0x12345678 0) 3 = some (0xC962FC98, [⟨.ok, 0xC962FC98⟩]) := by decide
/-- Section 2.5: the ignored high half. -/
theorem test_muli_ignores_high_data :
    run ⟨0x9640, 0xFFFFFFFF00000002⟩ (unit .standard 0x1234 0) 3 = some (0x2468, [⟨.ok, 0x2468⟩]) := by decide
/-- Section 2.6: 3 times -0.5. -/
theorem test_mulr_floors_negative :
    run ⟨0xA640, 0xBFE0000000000000⟩ (unit .standard 3 0) 3 = some (0xFFFE, [⟨.ok, 0xFFFE⟩]) := by decide
/-- Section 2.6, error rows: 0 times infinity; T2 keeps its content. -/
theorem test_mulr_infinity :
    run ⟨0xA440, 0x7FF0000000000000⟩ (unit .standard 0 7) 2 = some (7, [⟨.invalidInput, 0⟩]) := by decide
/-- Section 2.8: the low bits of the draw. -/
theorem test_uniform :
    run ⟨0xB200, 0⟩ (unit .standard 0 0 [0x123456789ABCBEEF]) 1 = some (0xBEEF, [⟨.ok, 0xBEEF⟩]) := by decide
/-- Section 2.8: no random-source port. -/
theorem test_uniform_without_rng :
    run ⟨0xB200, 0⟩ (unit noRng 5 0 [1]) 1 = some (5, [⟨.illegalCmd, 0⟩]) := by decide
/-- Section 2.8: a draw of -0.02. -/
theorem test_normal :
    run ⟨0xC200, 0x3F847AE147AE147B⟩ (unit .standard 0 0 [0xBF947AE147AE147B]) 1 =
      some (0xFAE1, [⟨.ok, 0xFAE1⟩]) := by decide
/-- Section 2.8: a standard deviation of -1.0; no draw is sent or consumed. -/
theorem test_normal_invalid_param :
    (after ⟨0xC200, 0xBFF0000000000000⟩ (unit .standard 5 0 [1])).map
      (fun t => (t.uint 1, t.responses, t.drawIn, t.drawRequests)) =
      some (5, [⟨.invalidParam, 0⟩], [1], []) := by decide

/-! ## The step -/

/-- R106: the request goes out and the command waits. -/
theorem test_wait_for_draw :
    (after ⟨0xC200, 0x3FB999999999999A⟩ (unit .standard 5 0)).map (fun t => (t.drawPending, t.responses)) =
      some (some ⟨.gauss, 0x3FB999999999999A⟩, []) := by decide
/-- R50: a request the backend does not take is offered, not transferred, and its answer is not consumed. -/
theorem test_request_waits_to_be_taken :
    (after ⟨0xB200, 0⟩ (backendSetReady false (unit .standard 5 0 [7]))).map
      (fun t => (t.drawOffered, t.drawPending, t.drawRequests, t.drawIn)) =
      some (some ⟨.bits, 0⟩, none, [], [7]) := by decide
/-- R50: once the request is taken the command completes. -/
theorem test_request_taken_late :
    ((after ⟨0xB200, 0⟩ (backendSetReady false (unit .standard 5 0 [7]))).bind fun t =>
      (after ⟨0x3000, 0⟩ (backendSetReady true t)).map fun u => (u.drawRequests, u.drawIn, u.responses)) =
      some ([⟨.bits, 0⟩], [], [⟨.ok, 7⟩]) := by decide
/-- R50, R142: a reset before the backend takes the request leaves no trace of it at the port. -/
theorem test_reset_before_request_is_taken :
    ((after ⟨0xB200, 0⟩ (backendSetReady false (unit .standard 5 0 [7]))).bind fun t =>
      (after ⟨0x3000, 0⟩ (hostSetReset true t)).map fun u => (u.drawOffered, u.drawRequests, u.drawIn)) =
      some (none, [], [7]) := by decide
/-- R140 to R142: reset during a wait leaves the unit idle, without a response. -/
theorem test_reset_during_wait :
    (((after ⟨0xB200, 0⟩ (unit .standard 5 0)).bind fun t => after ⟨0x3000, 0⟩ (hostSetReset true t)).map fun t =>
      (t.current, t.drawPending, t.offered, t.responses, t.cmdIn)) =
      some (none, none, none, [], [⟨0x3000, 0⟩]) := by decide
/-- R142, R143 duty 4: the answer to an abandoned request reaches no later command; the one after it does. -/
theorem test_reset_discards_abandoned_answer :
    (((after ⟨0xB200, 0⟩ (unit .standard 5 0)).bind fun t =>
      after ⟨0xB400, 0⟩ (hostSetReset true (backendAnswer 0x2222 (backendAnswer 0x1111 t)))).map fun t => t.drawIn) =
      some [0x2222] := by decide
/-- The two fixed functions agree on ADD T3, T1, T2. -/
theorem test_placed_word_runs :
    decodeTableWord 16 0x6650 = some (.add 3 1 2) ∧
    (match step ((unit .standard 2 3).withFetchWord 16 0x6650) with
      | .next t => t.uint 3
      | .fault _ => 0
      | .refused _ => 0) = 5 := by decide
/-- An 80-bit transfer: MULI T5, T3, #-3. -/
theorem test_table_word_with_data :
    decodeTableWord 80 0x00000000FFFFFFFD9AC0 = some (.muli 5 3 0xFFFFFFFD) := by decide

/-! ## Witnesses: for every statement with hypotheses, an input that meets them, clause by clause -/

/-- `W = 16`, `T1 = 8000`, idle, nothing offered to it. -/
def s0 : State := unit .standard 0x8000 3

/-- `s0` with the backend's next answer at hand: 0.5. -/
def sDraw : State := unit .standard 0x8000 3 [0x3FE0000000000000]

/-- `s0` with an answer at hand that is not a number. -/
def sNan : State := unit .standard 0x8000 3 [0x7FF8000000000000]

/-- An instance without the random-source port. -/
def sNoRng : State := unit noRng 0x8000 3

/-- `s0` with a backend that has an answer at hand and does not take requests. -/
def sNotTaken : State := { sDraw with rngReady := false }

/-- A unit that offers the request of UNIFORM T1, which the backend does not take. -/
def sOffers : State := { sNotTaken with current := some ⟨0xB200, 0⟩, drawOffered := some ⟨.bits, 0⟩ }

/-- A unit that waits for the draw of UNIFORM T1. -/
def sWait : State :=
  { s0 with current := some ⟨0xB200, 0⟩, drawPending := some ⟨.bits, 0⟩, drawRequests := [⟨.bits, 0⟩] }

/-- A unit that holds a response until the host takes it. -/
def sHeld : State := { s0 with current := some ⟨0x3040, 0⟩, offered := some ⟨.ok, 0x8000⟩, rspReady := false }

/-- A unit that waits for the draw of NORMAL T1 and whose backend has answered with what is not a number. -/
def sWaitNan : State :=
  { sNan with current := some ⟨0xC200, 0⟩, drawPending := some ⟨.gauss, 0⟩, drawRequests := [⟨.gauss, 0⟩] }

theorem fval_half : fval 0x3FE0000000000000 = some (1 / 2) := by decide +kernel
theorem fval_three_halves : fval 0x3FF8000000000000 = some (3 / 2) := by decide +kernel
theorem fval_minus_half : fval 0xBFE0000000000000 = some (-1 / 2) := by decide +kernel
theorem fval_minus_two : fval 0xC000000000000000 = some (-2) := by decide +kernel
theorem fval_minus_zero : fval 0x8000000000000000 = some 0 := by decide +kernel
theorem fval_infinity : fval 0x7FF0000000000000 = none := by decide
theorem fval_nan : fval 0x7FF8000000000000 = none := by decide

theorem witness_LegalWordIsTheEncodedWord : decode ⟨0x6FF8, 1⟩ = .ok (.add 7 7 7) := by decide

theorem witness_DecoderAcceptsExactlyTheTableRows :
    (∃ row ∈ opcodeRows, (0xCE00 : CmdWord) &&& row.2 = row.1) ∧ decode ⟨0xCE00, 0⟩ = .ok (.normal 7 0) := by decide

theorem witness_UnreadDataBitsAreIgnored :
    (0x31C0 : CmdWord) >>> 12 ∈ ([0x3, 0x4, 0x5, 0x6, 0x7, 0x8, 0xB] : List CmdWord) ∧
    (0xB200 : CmdWord) >>> 12 ∈ ([0x3, 0x4, 0x5, 0x6, 0x7, 0x8, 0xB] : List CmdWord) ∧
    ((0x9AC0 : CmdWord) >>> 12 = 0x9 ∧ (0xFFFFFFFF00000002 : Data).toNat % 2 ^ 32 = (2 : Data).toNat % 2 ^ 32) ∧
    (0xFFFF1234 : Data).toNat % 2 ^ s0.cfg.w = (0x1234 : Data).toNat % 2 ^ s0.cfg.w := by decide

theorem witness_FromrealReducesScalesAndFloors :
    fval 0xBFE0000000000000 = some (-1 / 2) ∧ fval 0x7FF0000000000000 = none := ⟨fval_minus_half, fval_infinity⟩

theorem witness_MulrFloorsTheExactProduct :
    fval 0xBFE0000000000000 = some (-1 / 2) ∧ fval 0x7FF8000000000000 = none := ⟨fval_minus_half, fval_nan⟩

theorem witness_UniformKeepsTheLowBitsOfOneDraw :
    (sDraw.cfg.hasRng = true ∧ sDraw.drawPending = none ∧ sDraw.rngReady = true ∧
      sDraw.drawIn = 0x3FE0000000000000 :: []) ∧
    (s0.rngReady = true ∧ s0.drawPending = none ∧ s0.drawIn = []) ∧
    (sNotTaken.cfg.hasRng = true ∧ sNotTaken.drawPending = none ∧ sNotTaken.rngReady = false) ∧
    sNoRng.cfg.hasRng = false := by decide

theorem witness_NormalEncodesOneGaussianDraw :
    (fval 0x8000000000000000 = some 0 ∧ (0 : ℚ) ≤ 0) ∧
    (sDraw.rngReady = true ∧ sDraw.drawPending = none ∧ sDraw.drawIn = 0x3FE0000000000000 :: [] ∧
      fval 0x3FE0000000000000 = some (1 / 2)) ∧
    (sNan.drawPending = none ∧ sNan.drawIn = 0x7FF8000000000000 :: [] ∧ fval 0x7FF8000000000000 = none) ∧
    (s0.rngReady = true ∧ s0.drawPending = none ∧ s0.drawIn = []) ∧
    (sNotTaken.cfg.hasRng = true ∧ sNotTaken.drawPending = none ∧ sNotTaken.rngReady = false) ∧
    (¬ ∃ v : ℚ, fval 0xC000000000000000 = some v ∧ 0 ≤ v) ∧ sNoRng.cfg.hasRng = false := by
  refine ⟨⟨fval_minus_zero, le_refl 0⟩, ⟨rfl, rfl, rfl, fval_half⟩, ⟨rfl, rfl, fval_nan⟩, ⟨rfl, rfl, rfl⟩,
    ⟨rfl, rfl, rfl⟩, ?_, rfl⟩
  rintro ⟨v, h, hv⟩
  rw [fval_minus_two, Option.some.injEq] at h
  subst h; norm_num at hv

/-- One pattern at each end of each class of R12. -/
theorem witness_FdecGivesTheExactValue :
    (fexp 0 = 0 ∧ fman 0 = 0) ∧ (fexp 0x8000000000000001 = 0 ∧ fman 0x8000000000000001 ≠ 0) ∧
    (fexp 0x000FFFFFFFFFFFFF = 0 ∧ fman 0x000FFFFFFFFFFFFF ≠ 0) ∧ fexp 0x0010000000000000 = 1 ∧
    fexp 0xFFEFFFFFFFFFFFFF = 2046 ∧ fexp 0x7FF0000000000000 = 2047 ∧
    fval 0x3FE0000000000000 = some (1 / 2) :=
  ⟨by decide, by decide, by decide, by decide, by decide, by decide, fval_half⟩

theorem witness_FromrealLaws :
    fval 0x3FE0000000000000 = some (1 / 2) ∧
    exec (.fromreal 1 0x3FE0000000000000) s0 = .next (encodeReal 1 s0 0x3FE0000000000000) ∧
    fval 0x3FF8000000000000 = some ((1 / 2 : ℚ) + (1 : ℤ)) ∧
    exec (.fromreal 1 0x3FF8000000000000) s0 = .next (encodeReal 1 s0 0x3FF8000000000000) ∧
    (1 / 2 : ℚ) * 2 ^ s0.cfg.w = (32768 : ℤ) :=
  ⟨fval_half, rfl, by rw [fval_three_halves]; norm_num, rfl, by norm_num [s0, unit, State.resetWith, Params.standard]⟩

theorem witness_RoundTrips :
    (∃ t, exec (.toreal 1) s0 = .next t ∧ t.offered = some ⟨.ok, 0x3FE0000000000000⟩) ∧
    fval 0xBFE0000000000000 = some (-1 / 2) ∧
    (∃ t u, exec (.fromreal 1 0xBFE0000000000000) s0 = .next t ∧ exec (.toreal 1) t = .next u ∧
      u.offered = some ⟨.ok, 0x3FE0000000000000⟩) ∧ fval 0x3FE0000000000000 = some (1 / 2) :=
  ⟨⟨_, rfl, by decide⟩, fval_minus_half, ⟨_, _, rfl, rfl, by decide⟩, fval_half⟩

theorem witness_MulrAgreesWithMuliOnIntegers :
    fval 0xC000000000000000 = some ((0xFFFFFFFE : BitVec 32).toInt : ℚ) := by decide +kernel

theorem witness_MuliMultipliesBySignedInteger :
    0 ≤ (0 : BitVec 32).toInt ∧ (0xFFFFFFFF : BitVec 32).toInt < 0 := by decide

theorem witness_MuliDistributesAndComposes : Params.wide.w ≤ 32 ∧ oneBit.w ≤ 32 := by decide

theorem witness_SignOfNegIsOppositeButAtTheTwoFixedPoints :
    ((1 : BitVec 16).toNat ≠ 0 ∧ (1 : BitVec 16).toNat ≠ 2 ^ (16 - 1)) ∧ (0 : BitVec 16).toNat = 0 ∧
    (0x8000 : BitVec 16).toNat = 2 ^ (16 - 1) := by decide

theorem witness_NormalIsFromrealOfTheDraw :
    sDraw.cfg.hasRng = true ∧ sigmaValid 0x8000000000000000 = true ∧ sDraw.drawPending = none ∧ sDraw.rngReady = true ∧
    sDraw.drawIn = 0x3FE0000000000000 :: [] := by decide

theorem witness_UniformReachesEveryValue :
    s0.cfg.hasRng = true ∧ s0.drawPending = none ∧ s0.rngReady = true ∧ 0xFFFF < 2 ^ s0.cfg.w := by decide

/-- An OK write, an error, and two states that agree on the sources. -/
theorem witness_CommandsFollowTheReadWriteTable :
    (∃ t, exec (.add 3 1 2) s0 = .next t ∧ (Instr.add 3 1 2).dest ≠ some 4 ∧ t.offered = some ⟨.ok, 0x8003⟩) ∧
    (∃ t, exec (.mulr 3 1 0x7FF0000000000000) s0 = .next t ∧ s0.offered = none ∧
      ∀ d, t.offered ≠ some ⟨.ok, d⟩) ∧
    (∃ t t', (Instr.neg 3 1).samples = false ∧ s0.cfg = sDraw.cfg ∧
      (∀ j ∈ (Instr.neg 3 1).sources, s0.uint j = sDraw.uint j) ∧ exec (.neg 3 1) s0 = .next t ∧
      exec (.neg 3 1) sDraw = .next t' ∧ (Instr.neg 3 1).dest = some 3 ∧ t.offered = some ⟨.ok, 0x8000⟩) :=
  ⟨⟨_, rfl, by decide, by decide⟩, ⟨_, rfl, rfl, fun d h => by cases h⟩,
    ⟨_, _, rfl, rfl, by decide, rfl, rfl, rfl, by decide⟩⟩

theorem witness_ErrorsLeaveNoTrace :
    (∃ t, exec (.normal 1 0xC000000000000000) s0 = .next t ∧ s0.offered = none ∧
      t.offered = some ⟨.invalidParam, 0⟩) ∧
    (∃ t, exec (.normal 1 0) sNan = .next t ∧ sNan.offered = none ∧ t.offered = some ⟨.invalidInput, 0⟩ ∧
      t.drawRequests = [⟨.gauss, 0⟩]) ∧
    (∃ t, exec (.normal 1 0) sWaitNan = .next t ∧ sWaitNan.offered = none ∧ t.offered = some ⟨.invalidInput, 0⟩ ∧
      t.drawRequests = [⟨.gauss, 0⟩]) :=
  ⟨⟨_, rfl, rfl, by decide⟩, ⟨_, rfl, rfl, by decide, by decide⟩, ⟨_, rfl, rfl, by decide, by decide⟩⟩

theorem witness_WhichCommandsAnswerWhichError :
    (∃ t, exec (.uniform 1) sNoRng = .next t ∧ t.offered = some ⟨.illegalCmd, 0⟩) ∧
    (∃ t, exec (.normal 1 0xC000000000000000) s0 = .next t ∧ t.offered = some ⟨.invalidParam, 0⟩) ∧
    (∃ t, exec (.fromreal 1 0x7FF0000000000000) s0 = .next t ∧ t.offered = some ⟨.invalidInput, 0⟩) ∧
    (∃ t, exec (.mulr 1 2 0x7FF0000000000000) s0 = .next t ∧ t.offered = some ⟨.invalidInput, 0⟩) ∧
    (∃ t, exec (.normal 1 0) sNan = .next t ∧ t.offered = some ⟨.invalidInput, 0⟩) :=
  ⟨⟨_, rfl, by decide⟩, ⟨_, rfl, by decide⟩, ⟨_, rfl, by decide⟩, ⟨_, rfl, by decide⟩, ⟨_, rfl, by decide⟩⟩

theorem witness_OnlySamplingDrawsAndAtMostOnce :
    (∃ t, exec (.toraw 1) sDraw = .next t ∧ (Instr.toraw 1).samples = false) ∧
    (∃ t, exec (.uniform 1) sDraw = .next t ∧ t.drawRequests = sDraw.drawRequests ++ [⟨.bits, 0⟩]) ∧
    (∃ t, exec (.uniform 1) sNotTaken = .next t ∧ t.drawOffered = drawOf (.uniform 1)) :=
  ⟨⟨_, rfl, rfl⟩, ⟨_, rfl, by decide⟩, ⟨_, rfl, by decide⟩⟩

theorem witness_OtherCommandsDoNotSeeTheRandomSource :
    (Instr.muli 3 1 5).samples = false ∧ ∃ t, exec (.muli 3 1 5) s0 = .next t := ⟨rfl, _, rfl⟩

theorem witness_ReadingTwiceAnswersTheSame :
    Instr.sign 1 ∈ [Instr.toraw 1, .toreal 1, .sign 1] ∧ ∃ t, exec (.sign 1) s0 = .next t := ⟨by decide, _, rfl⟩

theorem witness_CompoundAssignmentMatchesTheLongForm :
    ((Instr.sub 3 1 1, Instr.sub 1 1 1) ∈ [(Instr.add 3 1 1, Instr.add 1 1 1), (Instr.sub 3 1 1, Instr.sub 1 1 1),
      (Instr.muli 3 1 5, Instr.muli 1 1 5)] ∧ ∃ t u, exec (.sub 3 1 1) s0 = .next t ∧ exec (.sub 1 1 1) s0 = .next u) ∧
    (ffinite 0x3FE0000000000000 = true ∧ ∃ t u, exec (.mulr 3 1 0x3FE0000000000000) s0 = .next t ∧
      exec (.mulr 1 1 0x3FE0000000000000) s0 = .next u) :=
  ⟨⟨by decide, _, _, rfl, rfl⟩, ⟨by decide, _, _, rfl, rfl⟩⟩

theorem witness_StepRunsTheDecodedCommand :
    (∃ t, (hostSend ⟨0x6650, 0⟩ s0).rst = false ∧ (hostSend ⟨0x6650, 0⟩ s0).offered = none ∧
      (hostSend ⟨0x6650, 0⟩ s0).current = none ∧ (hostSend ⟨0x6650, 0⟩ s0).cmdIn = ⟨0x6650, 0⟩ :: [] ∧
      decode ⟨0x6650, 0⟩ = .ok (.add 3 1 2) ∧
      exec (.add 3 1 2) { hostSend ⟨0x6650, 0⟩ s0 with cmdIn := [], current := some ⟨0x6650, 0⟩ } = .next t) ∧
    (∃ t, sWait.rst = false ∧ sWait.offered = none ∧ sWait.current = some ⟨0xB200, 0⟩ ∧
      decode ⟨0xB200, 0⟩ = .ok (.uniform 1) ∧ exec (.uniform 1) sWait = .next t) :=
  ⟨⟨_, rfl, rfl, rfl, rfl, by decide, rfl⟩, ⟨_, rfl, rfl, rfl, by decide, rfl⟩⟩

theorem witness_PlacedWordRunsNext :
    ∃ t, decodeTableWord 16 0x6650 = some (.add 3 1 2) ∧
      exec (.add 3 1 2) { s0 with rst := false, offered := none, drawOffered := none, drawPending := none,
                                  current := some (commandOfBits 16 0x6650) } = .next t := ⟨_, by decide, rfl⟩

/-- One word for each way to be illegal. -/
theorem witness_IllegalWordsAreAnsweredAndChangeNothing :
    IllegalWord .standard 0xE248 ∧ IllegalWord noRng 0xCE00 ∧ IllegalWord .standard 0x6004 ∧
    IllegalWord .standard 0x1008 ∧ IllegalWord .standard 0x3600 ∧ IllegalWord .standard 0x8008 ∧
    (hostSend ⟨0xE248, 0⟩ s0).rst = false ∧ (hostSend ⟨0xE248, 0⟩ s0).offered = none ∧
    (hostSend ⟨0xE248, 0⟩ s0).current = none ∧ (hostSend ⟨0xE248, 0⟩ s0).cmdIn = ⟨0xE248, 0⟩ :: [] := by
  refine ⟨?_, ?_, ?_, ?_, ?_, ?_, rfl, rfl, rfl, rfl⟩ <;> (unfold IllegalWord; decide)

theorem witness_EveryStepHasANextState : s0.rst = false ∧ s0.Idle ∧ s0.cmdIn = [] := ⟨rfl, ⟨rfl, rfl, rfl, rfl⟩, rfl⟩

theorem witness_StepKeepsCoherence :
    Coherent s0 ∧ Coherent sHeld ∧ Coherent sWait ∧ Coherent sOffers ∧ (∃ t, step sWait = .next t) :=
  ⟨trivial, trivial, ⟨rfl, .uniform 1, by decide, rfl⟩, ⟨rfl, .uniform 1, by decide, rfl⟩, _, rfl⟩

/-- A state after reset, one with a command offered, and one after the step that takes it, without a random-source
port. -/
theorem witness_RunsStayCoherent :
    Reachable noRng (State.resetWith noRng) ∧ noRng.hasRng = false ∧
    Reachable noRng (hostSend ⟨0xB200, 0⟩ (State.resetWith noRng)) ∧
    ∃ t, step (hostSend ⟨0xB200, 0⟩ (State.resetWith noRng)) = .next t ∧ Reachable noRng t :=
  ⟨.reset, rfl, .send _ .reset, _, rfl, .step (.send ⟨0xB200, 0⟩ .reset) rfl⟩

theorem witness_NoStepChangesTheParameters : ∃ t, step sHeld = .next t := ⟨_, rfl⟩

/-- A register other than the destination, no command to run, and a command in error. -/
theorem witness_StepWritesAtMostOneRegister :
    (∃ t, (hostSend ⟨0x6650, 0⟩ s0).rst = false ∧ step (hostSend ⟨0x6650, 0⟩ s0) = .next t ∧
      (hostSend ⟨0x6650, 0⟩ s0).commandToRun = some ⟨0x6650, 0⟩ ∧ decode ⟨0x6650, 0⟩ = .ok (.add 3 1 2) ∧
      (Instr.add 3 1 2).dest ≠ some 2 ∧ t.uint 3 ≠ (hostSend ⟨0x6650, 0⟩ s0).uint 3) ∧
    (∃ t, step sHeld = .next t ∧ sHeld.commandToRun = none) ∧
    (∃ t, step (hostSend ⟨0xA640, 0x7FF0000000000000⟩ s0) = .next t ∧
      t.offered ≠ some ⟨.ok, BitVec.ofNat 64 (t.uint 3)⟩ ∧
      t.responses ≠ (hostSend ⟨0xA640, 0x7FF0000000000000⟩ s0).responses ++ [⟨.ok, BitVec.ofNat 64 (t.uint 3)⟩]) :=
  ⟨⟨_, rfl, rfl, rfl, by decide, by decide, by decide⟩, ⟨_, rfl, rfl⟩, ⟨_, rfl, by decide, by decide⟩⟩

/-- A command taken and answered in one step, and a held response transferred. -/
theorem witness_CommandsAreTakenOneAtATimeInOrder :
    (∃ t, step (hostSend ⟨0x6650, 0⟩ s0) = .next t ∧ Coherent (hostSend ⟨0x6650, 0⟩ s0) ∧ t.cmdIn = [] ∧
      t.responses = [⟨.ok, 0x8003⟩]) ∧
    (∃ t, step (hostSetReady true sHeld) = .next t ∧ Coherent (hostSetReady true sHeld) ∧ t.cmdIn = sHeld.cmdIn ∧
      t.responses ≠ sHeld.responses) :=
  ⟨⟨_, rfl, trivial, rfl, by decide⟩, ⟨_, rfl, trivial, rfl, by decide⟩⟩

theorem witness_OneStepOneCommandOneResponse :
    ((hostSend ⟨0xB200, 0⟩ sDraw).rst = false ∧ (hostSend ⟨0xB200, 0⟩ sDraw).Idle ∧
      (hostSend ⟨0xB200, 0⟩ sDraw).rspReady = true ∧ (hostSend ⟨0xB200, 0⟩ sDraw).cmdIn = ⟨0xB200, 0⟩ :: [] ∧
      (hostSend ⟨0xB200, 0⟩ sDraw).rngReady = true ∧ (hostSend ⟨0xB200, 0⟩ sDraw).drawIn ≠ []) ∧
    ((hostSend ⟨0x31C0, 0⟩ s0).Idle ∧ ∀ i, decode ⟨0x31C0, 0⟩ = .ok i → i.samples = false) := by
  refine ⟨⟨rfl, ⟨rfl, rfl, rfl, rfl⟩, rfl, rfl, rfl, by decide⟩, ⟨rfl, rfl, rfl, rfl⟩, fun i h => ?_⟩
  have e : decode ⟨0x31C0, 0⟩ = .ok (.toraw 7) := by decide
  rw [e] at h
  cases h; rfl

theorem witness_ResponseIsHeldUntilTaken :
    sHeld.rst = false ∧ sHeld.offered = some ⟨.ok, 0x8000⟩ ∧ sHeld.rspReady = false ∧
    (hostSetReady true sHeld).offered = some ⟨.ok, 0x8000⟩ ∧ (hostSetReady true sHeld).rspReady = true := by decide

theorem witness_OnlyTheBackendLiftsTheWait :
    (Coherent sWait ∧ sWait.rst = false ∧ sWait.drawPending = some ⟨.bits, 0⟩ ∧ sWait.drawIn = []) ∧
    (Coherent sOffers ∧ sOffers.rst = false ∧ sOffers.drawOffered = some ⟨.bits, 0⟩ ∧ sOffers.rngReady = false) :=
  ⟨⟨⟨rfl, .uniform 1, by decide, rfl⟩, rfl, rfl, rfl⟩, ⟨rfl, .uniform 1, by decide, rfl⟩, rfl, rfl, rfl⟩

theorem witness_LateDrawActsAsEarlyDraw :
    ((hostSend ⟨0xB200, 0⟩ s0).rst = false ∧ (hostSend ⟨0xB200, 0⟩ s0).Idle ∧
      (hostSend ⟨0xB200, 0⟩ s0).drawIn = [] ∧
      ∃ t, step (hostSend ⟨0xB200, 0⟩ s0) = .next t ∧ t.drawPending ≠ none) ∧
    ((hostSend ⟨0xB200, 0⟩ sNotTaken).rst = false ∧ (hostSend ⟨0xB200, 0⟩ sNotTaken).Idle ∧
      ∃ t, step (hostSend ⟨0xB200, 0⟩ sNotTaken) = .next t ∧ t.drawOffered ≠ none) :=
  ⟨⟨rfl, ⟨rfl, rfl, rfl, rfl⟩, rfl, _, rfl, by decide⟩, ⟨rfl, ⟨rfl, rfl, rfl, rfl⟩, _, rfl, by decide⟩⟩

/-- Reset of an idle unit, and of one whose request is outstanding and answered. -/
theorem witness_AssertedResetIdlesTheUnit :
    ((hostSetReset true sDraw).rst = true ∧ (hostSetReset true sDraw).drawPending = none) ∧
    ((hostSetReset true sWaitNan).rst = true ∧ (hostSetReset true sWaitNan).drawPending = some ⟨.gauss, 0⟩) :=
  ⟨⟨rfl, rfl⟩, rfl, rfl⟩

/-- Idle without a random-source port, and waiting with one. -/
theorem witness_StepKeepsTheInstanceInvariant :
    InstanceInv noRng sNoRng ∧ InstanceInv .standard sWait ∧ ∃ t, step sWait = .next t :=
  ⟨⟨trivial, rfl, fun _ => ⟨rfl, rfl, rfl⟩⟩, ⟨⟨rfl, .uniform 1, by decide, rfl⟩, rfl, fun h => by cases h⟩, _, rfl⟩

/-- A request taken, one not taken, and a reset while one is offered. -/
theorem witness_RequestsAreTransferredWhenTheBackendTakesThem :
    (∃ t, step (hostSend ⟨0xB200, 0⟩ s0) = .next t ∧ t.drawRequests = s0.drawRequests ++ [⟨.bits, 0⟩]) ∧
    (∃ t, step sOffers = .next t ∧ sOffers.rst = false ∧ sOffers.rngReady = false ∧
      sOffers.drawPending = none ∧ sOffers.commandToRun = some ⟨0xB200, 0⟩ ∧ decode ⟨0xB200, 0⟩ = .ok (.uniform 1) ∧
      drawOf (.uniform 1) = some ⟨.bits, 0⟩ ∧ sOffers.cfg.hasRng = true) ∧
    (∃ t, step (hostSetReset true sOffers) = .next t ∧ (hostSetReset true sOffers).rst = true) :=
  ⟨⟨_, rfl, by decide⟩, ⟨_, rfl, rfl, rfl, rfl, rfl, by decide, rfl, rfl⟩, _, rfl, rfl⟩

end Sys2Proof.Tests
end

section
/-! Family 00_scope: the step and the legal hidden states (O51, O42, O43, O36, O37), and the numerics of R12 and R13
(O18, O19). -/

namespace Sys2Proof.Machine

/-! ## What the meaning of a command does to the hidden state -/

theorem drawOf_of_not_samples {i : Instr} (h : i.samples = false) : drawOf i = none := by
  cases i <;> simp_all [drawOf, Instr.samples]

/-- No meaning changes the build parameters or the command in execution. -/
theorem exec_cfg_current {i : Instr} {s t : State} (h : exec i s = .next t) :
    t.cfg = s.cfg ∧ t.current = s.current := by
  rcases exec_cases h with ⟨rd, v, -, -, rfl⟩ | ⟨d, -, -, rfl⟩ | ⟨-, rfl⟩ | ⟨-, -, rfl⟩ | ⟨-, rfl, -⟩ |
    ⟨req, -, -, -, ⟨-, rfl⟩ | ⟨x, xs, -, -, ⟨rd, v, -, rfl⟩ | ⟨rfl, -⟩⟩⟩ <;> simp

/-- A meaning answers at once and leaves the random-source port alone, which in a unit with that port only a command
without a draw does; or it waits with its request at the port; or it answers with its draw consumed (R50, R106). -/
theorem exec_answers_or_draws {i : Instr} {s t : State} (h : exec i s = .next t) :
    ((∃ r, t.offered = some r) ∧ (s.cfg.hasRng = true → drawOf i = none) ∧ t.drawOffered = s.drawOffered ∧
      t.drawPending = s.drawPending ∧ t.drawRequests = s.drawRequests) ∨
    ∃ req, s.cfg.hasRng = true ∧ drawOf i = some req ∧
      (t = requestDraw req.kind req.sigma s ∨
        (∃ r, t.offered = some r) ∧ t.drawOffered = none ∧ t.drawPending = none) := by
  rcases exec_cases h with ⟨rd, v, hi, -, rfl⟩ | ⟨d, hi, -, rfl⟩ | ⟨hi, rfl⟩ | ⟨-, hr, rfl⟩ |
    ⟨-, rfl, rd, sd, rfl, hsd⟩ | ⟨req, -, hr, hreq, hdraw⟩
  · exact .inl ⟨⟨_, rfl⟩, fun _ => drawOf_of_not_samples hi, rfl, rfl, rfl⟩
  · exact .inl ⟨⟨_, rfl⟩, fun _ => drawOf_of_not_samples hi, rfl, rfl, rfl⟩
  · exact .inl ⟨⟨_, rfl⟩, fun _ => drawOf_of_not_samples hi, rfl, rfl, rfl⟩
  · exact .inl ⟨⟨_, rfl⟩, fun hr' => by simp [hr] at hr', rfl, rfl, rfl⟩
  · exact .inl ⟨⟨_, rfl⟩, fun _ => by simp [drawOf, hsd], rfl, rfl, rfl⟩
  · refine .inr ⟨req, hr, hreq, ?_⟩
    rcases hdraw with ⟨-, rfl⟩ | ⟨x, xs, -, -, ⟨rd, v, -, rfl⟩ | ⟨rfl, -⟩⟩
    · exact .inl rfl
    · exact .inr ⟨⟨_, rfl⟩, rfl, rfl⟩
    · exact .inr ⟨⟨_, rfl⟩, rfl, rfl⟩

/-! ## What every step keeps: the build parameters, and the record of requests without a random-source port -/

theorem runCommand_cfg {c : Command} {s t : State} (h : runCommand c s = .next t) : t.cfg = s.cfg := by
  rcases runCommand_cases h with ⟨-, rfl⟩ | ⟨i, u, -, hu, rfl⟩
  · simp
  · rw [deliver_cfg, (exec_cfg_current hu).1]

theorem step_cfg {s t : State} (h : step s = .next t) : t.cfg = s.cfg := by
  rcases step_cases h with ⟨-, rfl⟩ | ⟨-, -, rfl⟩ | ⟨-, -, c, -, hrun⟩ | ⟨-, -, -, -, rfl⟩ |
    ⟨-, -, -, c, rest, -, hrun⟩
  · rfl
  · exact deliver_cfg s
  · exact runCommand_cfg hrun
  · rfl
  · exact runCommand_cfg (s := accept c rest s) hrun

theorem runCommand_drawRequests_of_no_rng {c : Command} {s t : State} (hr : s.cfg.hasRng = false)
    (h : runCommand c s = .next t) : t.drawRequests = s.drawRequests := by
  rcases runCommand_cases h with ⟨-, rfl⟩ | ⟨i, u, -, hu, rfl⟩
  · simp
  · rcases exec_answers_or_draws hu with ⟨-, -, -, -, hrec⟩ | ⟨req, hr', -⟩
    · rw [deliver_drawRequests, hrec]
    · simp [hr] at hr'

/-- Without a random-source port no step transfers a draw request (R105). -/
theorem step_drawRequests_of_no_rng {s t : State} (hr : s.cfg.hasRng = false) (h : step s = .next t) :
    t.drawRequests = s.drawRequests := by
  rcases step_cases h with ⟨-, rfl⟩ | ⟨-, -, rfl⟩ | ⟨-, -, c, -, hrun⟩ | ⟨-, -, -, -, rfl⟩ |
    ⟨-, -, -, c, rest, -, hrun⟩
  · rfl
  · exact deliver_drawRequests s
  · exact runCommand_drawRequests_of_no_rng hr hrun
  · rfl
  · exact runCommand_drawRequests_of_no_rng (s := accept c rest s) hr hrun

/-! ## The legal combinations of the hidden state -/

theorem coherent_of_idle {s : State} (h : s.Idle) : Coherent s := by
  obtain ⟨hc, ho, hd, hp⟩ := h
  simp [Coherent, hc, ho, hd, hp]

theorem coherent_of_answered {s : State} {c : Command} (hc : s.current = some c) (ho : ∃ r, s.offered = some r)
    (hd : s.drawOffered = none) (hp : s.drawPending = none) : Coherent s := by
  obtain ⟨r, ho⟩ := ho
  simp [Coherent, hc, ho, hd, hp]

theorem coherent_of_waiting {s : State} {c : Command} {i : Instr} {req : DrawRequest} (hc : s.current = some c)
    (ho : s.offered = none) (hr : s.cfg.hasRng = true) (hi : decode c = .ok i) (hreq : drawOf i = some req)
    (h : s.drawOffered = some req ∧ s.drawPending = none ∨ s.drawOffered = none ∧ s.drawPending = some req) :
    Coherent s := by
  rcases h with ⟨hd, hp⟩ | ⟨hd, hp⟩ <;> simp [Coherent, hc, ho, hd, hp, hr, hi, hreq]

/-- Only a unit with a random-source port has a request at it (R105). -/
theorem draws_none_of_coherent {s : State} (h : Coherent s) (hr : s.cfg.hasRng = false) :
    s.drawOffered = none ∧ s.drawPending = none := by
  rcases coherent_cases h with ⟨-, -, hd, hp⟩ | ⟨c, r, -, -, hd, hp⟩ | ⟨c, i, req, -, -, hr', -⟩
  · exact ⟨hd, hp⟩
  · exact ⟨hd, hp⟩
  · simp [hr] at hr'

theorem applyReset_idle (s : State) : (applyReset s).Idle := ⟨rfl, rfl, rfl, rfl⟩

/-- A response comes with no request at the random-source port, so its transfer leaves the unit idle. -/
theorem deliver_coherent {s : State} (h : Coherent s) : Coherent (deliver s) := by
  obtain ⟨hsent, hheld⟩ := deliver_delivered s
  rcases coherent_cases h with ⟨-, ho, -, -⟩ | ⟨c, r, -, ho, hd, hp⟩ | ⟨c, i, req, -, ho, -⟩
  · rwa [hheld (.inl ho)]
  · cases hy : s.rspReady
    · rwa [hheld (.inr hy)]
    · rw [hsent r ho hy]
      exact coherent_of_idle ⟨rfl, rfl, hd, hp⟩
  · rwa [hheld (.inl ho)]

/-! ## A command in execution keeps the hidden state legal -/

/-- The unit is about to run `c`: no response is offered, and a request at the random-source port is the one that `c`
makes. This is what `runCommand` meets when the hidden state is legal. -/
def RunsCoherently (c : Command) (s : State) : Prop :=
  s.current = some c ∧ s.offered = none ∧
    (s.drawOffered = none ∧ s.drawPending = none ∨
      s.cfg.hasRng = true ∧ ∃ i req, decode c = .ok i ∧ drawOf i = some req ∧
        (s.drawOffered = some req ∧ s.drawPending = none ∨ s.drawOffered = none ∧ s.drawPending = some req))

theorem runsCoherently_of_current {s : State} {c : Command} (h : Coherent s) (ho : s.offered = none)
    (hc : s.current = some c) : RunsCoherently c s := by
  refine ⟨hc, ho, ?_⟩
  rcases coherent_cases h with ⟨-, -, hd, hp⟩ | ⟨-, -, -, -, hd, hp⟩ | ⟨c', i, req, hc', -, hr, hi, hreq, hport⟩
  · exact .inl ⟨hd, hp⟩
  · exact .inl ⟨hd, hp⟩
  · obtain rfl : c' = c := Option.some.inj (hc'.symm.trans hc)
    exact .inr ⟨hr, i, req, hi, hreq, hport⟩

theorem runsCoherently_accept {s : State} (c : Command) (rest : List Command) (h : Coherent s)
    (ho : s.offered = none) (hc : s.current = none) : RunsCoherently c (accept c rest s) := by
  refine ⟨rfl, ho, .inl ?_⟩
  rcases coherent_cases h with ⟨-, -, hd, hp⟩ | ⟨c', -, hc', -⟩ | ⟨c', -, -, hc', -⟩
  · exact ⟨hd, hp⟩
  · simp [hc] at hc'
  · simp [hc] at hc'

/-- A command that makes no draw request runs with nothing at the random-source port. -/
theorem RunsCoherently.draws_none {c : Command} {s : State} (h : RunsCoherently c s)
    (hno : s.cfg.hasRng = true → ∀ i, decode c = .ok i → drawOf i = none) :
    s.drawOffered = none ∧ s.drawPending = none := by
  obtain ⟨-, -, hport | ⟨hr, i, req, hi, hreq, -⟩⟩ := h
  · exact hport
  · simp [hno hr i hi] at hreq

/-- After its request a command has that request at the port, offered or outstanding, and no other (R46, R50). -/
theorem requestDraw_coherent {c : Command} {i : Instr} {req : DrawRequest} {s : State} (h : RunsCoherently c s)
    (hr : s.cfg.hasRng = true) (hi : decode c = .ok i) (hreq : drawOf i = some req) :
    Coherent (requestDraw req.kind req.sigma s) := by
  obtain ⟨hc, ho, hport⟩ := h
  refine coherent_of_waiting (c := c) (by simpa using hc) (by simpa using ho) (by simpa using hr) hi hreq ?_
  cases hp : s.drawPending with
  | none =>
    cases hy : s.rngReady
    · exact .inl (by simp [hp, hy])
    · exact .inr (by simp [hp, hy])
  | some req' =>
    rcases hport with ⟨-, hp'⟩ | ⟨-, i', req'', hi', hreq', ⟨-, hp'⟩ | ⟨hd, hp'⟩⟩
    · simp [hp] at hp'
    · simp [hp] at hp'
    · obtain rfl : i = i' := Except.ok.inj (hi.symm.trans hi')
      obtain rfl : req = req'' := Option.some.inj (hreq.symm.trans hreq')
      exact .inr (by simp [hd, hp'])

theorem exec_coherent {c : Command} {i : Instr} {s t : State} (hs : RunsCoherently c s) (hi : decode c = .ok i)
    (h : exec i s = .next t) : Coherent t := by
  have hc : t.current = some c := (exec_cfg_current h).2.trans hs.1
  rcases exec_answers_or_draws h with ⟨hans, hno, hd, hp, -⟩ | ⟨req, hr, hreq, rfl | ⟨hans, hd, hp⟩⟩
  · obtain ⟨hd', hp'⟩ : s.drawOffered = none ∧ s.drawPending = none := by
      refine hs.draws_none fun hr j hj => ?_
      obtain rfl : i = j := Except.ok.inj (hi.symm.trans hj)
      exact hno hr
    exact coherent_of_answered hc hans (hd.trans hd') (hp.trans hp')
  · exact requestDraw_coherent hs hr hi hreq
  · exact coherent_of_answered hc hans hd hp

theorem runCommand_coherent {c : Command} {s t : State} (hs : RunsCoherently c s) (h : runCommand c s = .next t) :
    Coherent t := by
  rcases runCommand_cases h with ⟨⟨e, he⟩, rfl⟩ | ⟨i, u, hi, hu, rfl⟩
  · obtain ⟨hd, hp⟩ := hs.draws_none fun _ i hi => by simp [he] at hi
    exact deliver_coherent (coherent_of_answered hs.1 ⟨_, rfl⟩ hd hp)
  · exact deliver_coherent (exec_coherent hs hi hu)

/-- Every step keeps the legal combinations of the hidden state. -/
theorem step_coherent {s t : State} (hs : Coherent s) (h : step s = .next t) : Coherent t := by
  rcases step_cases h with ⟨-, rfl⟩ | ⟨-, -, rfl⟩ | ⟨-, ho, c, hc, hrun⟩ | ⟨-, -, -, -, rfl⟩ |
    ⟨-, ho, hc, c, rest, -, hrun⟩
  · exact coherent_of_idle (applyReset_idle s)
  · exact deliver_coherent hs
  · exact runCommand_coherent (runsCoherently_of_current hs ho hc) hrun
  · exact hs
  · exact runCommand_coherent (runsCoherently_accept c rest hs ho hc) hrun

/-! ## The invariant of one unit -/

theorem step_instanceInv {p : Params} {s t : State} (hs : InstanceInv p s) (h : step s = .next t) :
    InstanceInv p t := by
  obtain ⟨hcoh, hcfg, hno⟩ := hs
  have hcoh' : Coherent t := step_coherent hcoh h
  have hcfg' : t.cfg = p := (step_cfg h).trans hcfg
  refine ⟨hcoh', hcfg', fun hp => ⟨?_, draws_none_of_coherent hcoh' (by rw [hcfg', hp])⟩⟩
  rw [step_drawRequests_of_no_rng (by rw [hcfg, hp]) h]
  exact (hno hp).1

/-- The invariant speaks of the parameters and of what the unit itself holds, not of the levels and lists that the
host and the backend drive. -/
theorem InstanceInv.of_same_hidden {p : Params} {s t : State} (h : InstanceInv p s) (hcfg : t.cfg = s.cfg)
    (hc : t.current = s.current) (ho : t.offered = s.offered) (hd : t.drawOffered = s.drawOffered)
    (hp : t.drawPending = s.drawPending) (hrec : t.drawRequests = s.drawRequests) : InstanceInv p t := by
  simpa only [InstanceInv, Coherent, hcfg, hc, ho, hd, hp, hrec] using h

theorem resetWith_instanceInv (p : Params) : InstanceInv p (State.resetWith p) :=
  ⟨coherent_of_idle ⟨rfl, rfl, rfl, rfl⟩, rfl, fun _ => ⟨rfl, rfl, rfl⟩⟩

/-- Settles O51: a step keeps each part of the invariant, and the host and the backend touch none of it. -/
theorem stepKeepsTheInstanceInvariant : Obligations.StepKeepsTheInstanceInvariant := by
  intro p s hs
  refine ⟨fun t h => step_instanceInv hs h, fun c => ?_, fun b => ⟨?_, ?_⟩, fun b => ?_, fun x => ?_⟩
  all_goals exact hs.of_same_hidden rfl rfl rfl rfl rfl rfl

/-- Settles O42, by induction on how the state is reached; the host and the backend touch none of the invariant. -/
theorem runsStayCoherent : Obligations.RunsStayCoherent := by
  intro p s h
  change InstanceInv p s
  induction h with
  | reset => exact resetWith_instanceInv p
  | step _ hstep ih => exact step_instanceInv ih hstep
  | send _ _ ih | ready _ _ ih | rst _ _ ih | take _ _ ih | answer _ _ ih =>
    exact ih.of_same_hidden rfl rfl rfl rfl rfl rfl

/-- Settles O43: reset included, see `step_cfg`. -/
theorem noStepChangesTheParameters : Obligations.NoStepChangesTheParameters := fun _ _ h => step_cfg h

/-! ## The command a step runs -/

theorem runCommand_delivers {c : Command} {i : Instr} {s t : State} (hd : decode c = .ok i)
    (h : exec i s = .next t) : ∃ u, runCommand c s = .next u ∧ Delivered t u :=
  ⟨deliver t, runCommand_of_exec hd h, deliver_delivered t⟩

/-- Settles O36: an idle unit runs the first offered command, a waiting one the command it holds. -/
theorem stepRunsTheDecodedCommand : Obligations.StepRunsTheDecodedCommand := by
  refine ⟨fun s t c rest i hr ho hc hin hi h => ?_, fun s t c i hr ho hc hi h => ?_⟩
  · rw [step_of_offered_command hr ho hc hin]
    exact runCommand_delivers hi h
  · rw [step_of_current hr ho hc]
    exact runCommand_delivers hi h

theorem decode_of_decodeTableWord {nbits w : Nat} {i : Instr} (h : decodeTableWord nbits w = some i) :
    decode (commandOfBits nbits w) = .ok i := by
  unfold decodeTableWord at h
  split at h
  · next j hj => rw [hj, Option.some.inj h]
  · cases h

/-- The unit takes a placed word at once, as it takes the first command of the host. -/
theorem step_withFetchWord (s : State) (nbits w : Nat) :
    step (s.withFetchWord nbits w) = runCommand (commandOfBits nbits w)
      (accept (commandOfBits nbits w) s.cmdIn (offerNext (commandOfBits nbits w) s)) :=
  step_of_offered_command rfl rfl rfl rfl

/-- Settles O37: the step runs the placed word on the state with that word in execution. -/
theorem placedWordRunsNext : Obligations.PlacedWordRunsNext := by
  intro s t nbits w i hi h
  rw [step_withFetchWord]
  exact runCommand_delivers (decode_of_decodeTableWord hi) h

/-! ## The exact value of a floating-point pattern (R12) -/

theorem fval_of_fexp_zero {b : Data} (h : fexp b = 0) :
    fval b = some ((if fsign b then -1 else 1) * fman b * (2 : ℚ) ^ (-1074 : ℤ)) := by
  simp [fval, h]

theorem fval_of_normal {b : Data} (h0 : fexp b ≠ 0) (hfin : fexp b ≠ 2047) :
    fval b = some ((if fsign b then -1 else 1) * (2 ^ 52 + fman b) * (2 : ℚ) ^ ((fexp b : ℤ) - 1075)) := by
  simp only [fval, h0, hfin, if_false]
  push_cast
  rfl

theorem fdec_of_fexp_zero {b : Data} (h : fexp b = 0) : fdec b = ⟨fsign b, fman b, -1074⟩ := by
  simp [fdec, h]

theorem fdec_of_normal {b : Data} (h : fexp b ≠ 0) :
    fdec b = ⟨fsign b, 2 ^ 52 + fman b, (fexp b : ℤ) - 1075⟩ := by
  simp [fdec, h]

/-- `fdec` decomposes the value of a finite pattern exactly. -/
theorem fval_eq_fdec {b : Data} (hfin : fexp b ≠ 2047) :
    fval b = some ((if (fdec b).s then -1 else 1) * (fdec b).m * (2 : ℚ) ^ (fdec b).e) := by
  by_cases h0 : fexp b = 0
  · rw [fval_of_fexp_zero h0, fdec_of_fexp_zero h0]
  · rw [fval_of_normal h0 hfin, fdec_of_normal h0]
    push_cast
    rfl

theorem fdec_m_lt (b : Data) : (fdec b).m < 2 ^ 53 := by
  have hman := fman_lt b
  by_cases h0 : fexp b = 0
  · rw [fdec_of_fexp_zero h0]; dsimp only; omega
  · rw [fdec_of_normal h0]; dsimp only; omega

theorem fdec_e_bounds {b : Data} (hfin : fexp b ≠ 2047) : -1074 ≤ (fdec b).e ∧ (fdec b).e ≤ 971 := by
  have hexp := fexp_lt b
  by_cases h0 : fexp b = 0
  · rw [fdec_of_fexp_zero h0]; dsimp only; omega
  · rw [fdec_of_normal h0]; dsimp only; omega

/-- Settles O18, class by class of R12. -/
theorem fdecGivesTheExactValue : Obligations.FdecGivesTheExactValue := by
  intro b
  refine ⟨(ffinite_iff b).trans (fval_isSome_iff b).symm, fun x hx => ?_, fun h0 hm => ?_,
    fun h0 _ => fval_of_fexp_zero h0, fun hlo hhi => fval_of_normal (by omega) (by omega),
    (fval_eq_none_iff b).mpr⟩
  · have hfin : fexp b ≠ 2047 := (fval_isSome_iff b).mp ⟨x, hx⟩
    rw [fval_eq_fdec hfin] at hx
    exact ⟨(Option.some.inj hx).symm, fdec_m_lt b, fdec_e_bounds hfin⟩
  · rw [fval_of_fexp_zero h0, hm]
    simp

/-! ## `FloorScale` (R13) -/

/-- With `E < 0` the integer procedure is floor division by `2^(-E)`: a negative number with a remainder goes one
below its truncated quotient. -/
theorem floorScale_of_neg (w : Nat) (s : Bool) (P : Nat) {E : Int} (h : E < 0) :
    floorScale w s P E = trunc w ((if s then -(P : Int) else P) / (2 ^ (-E).toNat : Nat)) := by
  have hE : ¬ 0 ≤ E := by omega
  have hsign : ((2 ^ (-E).toNat : Nat) : Int).sign = 1 := Int.sign_eq_one_of_pos (by positivity)
  cases s
  · simp [floorScale, hE]
  · simp only [floorScale, hE, if_false, if_true, Int.neg_ediv, hsign, Int.natCast_dvd_natCast,
      Nat.dvd_iff_mod_eq_zero, Int.natCast_ediv, ite_not, ne_eq]

theorem floor_mul_two_zpow_of_nonneg (n : Int) {E : Int} (h : 0 ≤ E) : ⌊(n : ℚ) * (2 : ℚ) ^ E⌋ = n * 2 ^ E.toNat := by
  obtain ⟨k, rfl⟩ := Int.eq_ofNat_of_zero_le h
  have : (n : ℚ) * (2 : ℚ) ^ (k : ℤ) = ((n * 2 ^ k : ℤ) : ℚ) := by push_cast [zpow_natCast]; rfl
  rw [this, Int.floor_intCast, Int.toNat_natCast]

theorem floor_mul_two_zpow_of_neg (n : Int) {E : Int} (h : E < 0) :
    ⌊(n : ℚ) * (2 : ℚ) ^ E⌋ = n / (2 ^ (-E).toNat : Nat) := by
  have hE : E = -((-E).toNat : ℤ) := by omega
  have : (n : ℚ) * (2 : ℚ) ^ E = (n : ℚ) / ((2 ^ (-E).toNat : Nat) : ℚ) := by
    conv_lhs => rw [hE]
    rw [zpow_neg, zpow_natCast, ← div_eq_mul_inv]
    push_cast
    rfl
  rw [this, Rat.floor_intCast_div_natCast]

/-- Settles O19: both sides are one floor division, or one exact product, of the signed integer. -/
theorem floorScaleIsTheFloorOfTheRational : Obligations.FloorScaleIsTheFloorOfTheRational := by
  intro w s P E
  have hsigned : (if s then -1 else 1) * (P : ℚ) = ((if s then -(P : Int) else P : Int) : ℚ) := by
    cases s <;> simp
  rw [hsigned]
  rcases lt_or_ge E 0 with h | h
  · rw [floorScale_of_neg w s P h, trunc_toNat, floor_mul_two_zpow_of_neg _ h]
  · rw [floorScale_of_nonneg w s P h, trunc_toNat, floor_mul_two_zpow_of_nonneg _ h]
    cases s <;> simp

end Sys2Proof.Machine
end

section
/-! Family 10_state: the hidden state and the state after reset (O40, O41), the step that always exists (O39), and the
registers a command and a step read and write (O29, O44). -/

namespace Sys2Proof.Machine

/-! ## The hidden state -/

/-- Settles O40: a reset and a transfer leave the unit idle, and a command in execution keeps the hidden state legal
(`runCommand_coherent`). -/
theorem stepKeepsCoherence : Obligations.StepKeepsCoherence := fun _ _ hs h => step_coherent hs h

theorem resetWith_idle (p : Params) : (State.resetWith p).Idle := ⟨rfl, rfl, rfl, rfl⟩

/-- Settles O41: an idle unit is legal, and a fresh one has recorded nothing. -/
theorem resetIsIdle : Obligations.ResetIsIdle := fun p =>
  ⟨resetWith_idle p, coherent_of_idle (resetWith_idle p), rfl, rfl, rfl, rfl, resetWith_instanceInv p⟩

/-! ## Every step has a next state -/

/-- Every command has a meaning in every state (R22, R115). -/
theorem exec_total (i : Instr) (s : State) : ∃ t, exec i s = .next t := by
  cases i <;> exact ⟨_, rfl⟩

theorem runCommand_total (c : Command) (s : State) : ∃ t, runCommand c s = .next t := by
  cases hd : decode c with
  | error e => exact ⟨_, runCommand_of_illegal s hd⟩
  | ok i =>
    obtain ⟨t, ht⟩ := exec_total i s
    exact ⟨_, runCommand_of_exec hd ht⟩

theorem step_of_rst {s : State} (hr : s.rst = true) : step s = .next (applyReset s) := by
  simp [step, cycle, hr]

theorem step_of_offered {s : State} {r : Response} (hr : s.rst = false) (ho : s.offered = some r) :
    step s = .next (deliver s) := by
  simp [step, cycle, hr, ho]

/-- A unit with no command, and none offered to it, stays as it is (R130). -/
theorem step_of_nothing_offered {s : State} (hr : s.rst = false) (ho : s.offered = none) (hc : s.current = none)
    (hin : s.cmdIn = []) : step s = .next s := by
  simp [step, cycle, hr, ho, hc, hin]

theorem step_total (s : State) : ∃ t, step s = .next t := by
  cases hr : s.rst with
  | true => exact ⟨_, step_of_rst hr⟩
  | false =>
    cases ho : s.offered with
    | some r => exact ⟨_, step_of_offered hr ho⟩
    | none =>
      cases hc : s.current with
      | some c =>
        rw [step_of_current hr ho hc]
        exact runCommand_total c s
      | none =>
        cases hin : s.cmdIn with
        | nil => exact ⟨_, step_of_nothing_offered hr ho hc hin⟩
        | cons c rest =>
          rw [step_of_offered_command hr ho hc hin]
          exact runCommand_total c (accept c rest s)

/-- Settles O39: each meaning answers a next state, and so does each other branch of the step. -/
theorem everyStepHasANextState : Obligations.EveryStepHasANextState := by
  refine ⟨step_total, fun s hr hidle hin => ?_⟩
  obtain ⟨hc, ho, -, -⟩ := hidle
  exact step_of_nothing_offered hr ho hc hin

/-! ## The register a command writes -/

/-- The response `(OK, zext_64(T[j]))`, with which a command that has written `T[j]` ends (R54). -/
def State.okAnswer (t : State) (j : TReg) : Response := ⟨.ok, BitVec.ofNat 64 (t.uint j)⟩

@[simp] theorem deliver_okAnswer (t : State) (j : TReg) : (deliver t).okAnswer j = t.okAnswer j := by
  simp [State.okAnswer]

/-- `finish` writes one register and offers its new content (R21, R54). -/
theorem finish_offers_okAnswer (s : State) (rd : TReg) (v : BitVec s.cfg.w) :
    (finish s rd v).offered = some ((finish s rd v).okAnswer rd) := by
  obtain ⟨hrd, -, -, ho, -⟩ := finish_writesOnly s rd v
  rw [ho, State.okAnswer, hrd]

/-- A meaning leaves every register alone, or it changes its destination alone and answers OK with the new content. -/
theorem exec_writes {i : Instr} {s t : State} (h : exec i s = .next t) :
    (∀ j, t.uint j = s.uint j) ∨
      ∃ rd, i.dest = some rd ∧ t.offered = some (t.okAnswer rd) ∧ ∀ j, j ≠ rd → t.uint j = s.uint j := by
  rcases exec_cases h with ⟨rd, v, -, hrd, rfl⟩ | ⟨d, -, -, rfl⟩ | ⟨-, rfl⟩ | ⟨-, -, rfl⟩ | ⟨-, rfl, -⟩ |
    ⟨req, -, -, -, ⟨-, rfl⟩ | ⟨x, xs, -, -, ⟨rd, v, hrd, rfl⟩ | ⟨rfl, -⟩⟩⟩
  · exact .inr ⟨rd, hrd, finish_offers_okAnswer s rd v, fun j hj => finish_uint_of_ne s v hj⟩
  · exact .inl fun j => rfl
  · exact .inl fun j => rfl
  · exact .inl fun j => rfl
  · exact .inl fun j => rfl
  · exact .inl (requestDraw_uint _ _ s)
  · refine .inr ⟨rd, hrd, finish_offers_okAnswer _ rd v, fun j hj => ?_⟩
    rw [finish_uint_of_ne _ v hj, consumeDraw_uint, requestDraw_uint]
  · exact .inl (requestDraw_uint _ _ s)

/-! ## What the answer of a command depends on -/

/-- A register's content is given by the width and the register's number. -/
theorem torus_eq_ofNat_uint (s : State) (j : TReg) : s.torus j = BitVec.ofNat s.cfg.w (s.uint j) := by
  simp [State.uint]

/-- `t` and `t'` are left by a command with the destination `dest` in the same way: the same response, and, when it is
OK, the same content of the destination. -/
def AnswersAlike (dest : Option TReg) (t t' : State) : Prop :=
  t.offered = t'.offered ∧ ∀ rd d, dest = some rd → t.offered = some ⟨.ok, d⟩ → t.uint rd = t'.uint rd

theorem finish_answersAlike {s s' : State} (rd : TReg) {v : BitVec s.cfg.w} {v' : BitVec s'.cfg.w}
    (hv : v.toNat = v'.toNat) : AnswersAlike (some rd) (finish s rd v) (finish s' rd v') := by
  obtain ⟨hrd, -, -, ho, -⟩ := finish_writesOnly s rd v
  obtain ⟨hrd', -, -, ho', -⟩ := finish_writesOnly s' rd v'
  refine ⟨by rw [ho, ho', hv], fun rd' d hd _ => ?_⟩
  obtain rfl : rd = rd' := Option.some.inj hd
  rw [hrd, hrd', hv]

theorem respond_answersAlike {s s' : State} {d d' : Data} (hd : d = d') :
    AnswersAlike none (respond .ok d s) (respond .ok d' s') :=
  ⟨by simp [hd], fun _ _ hrd => by cases hrd⟩

theorem raise_answersAlike (dest : Option TReg) {e : Status} (he : e ≠ .ok) (s s' : State) :
    AnswersAlike dest (raise e s) (raise e s') :=
  ⟨rfl, fun _ _ _ ho => absurd (congrArg Response.status (Option.some.inj ho)) he⟩

theorem encodeReal_answersAlike {s s' : State} (hcfg : s.cfg = s'.cfg) (rd : TReg) (f : Data) :
    AnswersAlike (some rd) (encodeReal rd s f) (encodeReal rd s' f) := by
  cases hf : ffinite f
  · rw [encodeReal_of_not_finite rd s hf, encodeReal_of_not_finite rd s' hf]
    exact raise_answersAlike _ (by decide) s s'
  · rw [encodeReal_of_finite rd s hf, encodeReal_of_finite rd s' hf]
    exact finish_answersAlike rd (by rw [hcfg])

theorem exec_mulr_of_finite (rd a : TReg) {k : Data} (s : State) (hk : ffinite k = true) :
    exec (.mulr rd a k) s = .next (finish s rd (torusMulReal (s.torus a) k)) := by
  simp [exec, execMulr, hk]

theorem exec_mulr_of_not_finite (rd a : TReg) {k : Data} (s : State) (hk : ffinite k = false) :
    exec (.mulr rd a k) s = .next (raise .invalidInput s) := by
  simp [exec, execMulr, hk]

/-- A command without a draw computes its response, and what it writes, from the build parameters and its source
registers: the width and the registers' numbers are all that its meaning reads. -/
theorem exec_answersAlike {i : Instr} {s s' t t' : State} (hi : i.samples = false) (hcfg : s.cfg = s'.cfg)
    (hsrc : ∀ j ∈ i.sources, s.uint j = s'.uint j) (h : exec i s = .next t) (h' : exec i s' = .next t') :
    AnswersAlike i.dest t t' := by
  cases i with
  | fromraw rd d => cases h; cases h'; exact finish_answersAlike rd (by rw [hcfg])
  | fromreal rd f => cases h; cases h'; exact encodeReal_answersAlike hcfg rd f
  | toraw a =>
    have ha : s.uint a = s'.uint a := hsrc a (.head _)
    cases h; cases h'; exact respond_answersAlike (by simp only [torus_eq_ofNat_uint, ha]; rw [hcfg])
  | toreal a =>
    have ha : s.uint a = s'.uint a := hsrc a (.head _)
    cases h; cases h'; exact respond_answersAlike (by rw [hcfg, ha])
  | sign a =>
    have ha : s.uint a = s'.uint a := hsrc a (.head _)
    cases h; cases h'; exact respond_answersAlike (by simp only [torus_eq_ofNat_uint, ha]; rw [hcfg])
  | add rd a b | sub rd a b =>
    have ha : s.uint a = s'.uint a := hsrc a (.head _)
    have hb : s.uint b = s'.uint b := hsrc b (.tail _ (.head _))
    cases h; cases h'; exact finish_answersAlike rd (by simp only [torus_eq_ofNat_uint, ha, hb]; rw [hcfg])
  | neg rd a | muli rd a k =>
    have ha : s.uint a = s'.uint a := hsrc a (.head _)
    cases h; cases h'; exact finish_answersAlike rd (by simp only [torus_eq_ofNat_uint, ha]; rw [hcfg])
  | mulr rd a k =>
    have ha : s.uint a = s'.uint a := hsrc a (.head _)
    cases hk : ffinite k
    · rw [exec_mulr_of_not_finite rd a _ hk] at h h'
      cases h; cases h'; exact raise_answersAlike _ (by decide) s s'
    · rw [exec_mulr_of_finite rd a _ hk] at h h'
      cases h; cases h'; exact finish_answersAlike rd (by simp only [torus_eq_ofNat_uint, ha]; rw [hcfg])
  | uniform rd | normal rd sd => cases hi

/-- Settles O29: the writes are `exec_writes`, the reads `exec_answersAlike`. -/
theorem commandsFollowTheReadWriteTable : Obligations.CommandsFollowTheReadWriteTable := by
  refine ⟨fun i s t h => ?_, fun i s s' t t' hi hcfg hsrc h h' => exec_answersAlike hi hcfg hsrc h h'⟩
  rcases exec_writes h with hall | ⟨rd, hrd, hok, hother⟩
  · exact ⟨fun j _ => hall j, fun _ _ => hall⟩
  · refine ⟨fun j hj => hother j ?_, fun _ hno => absurd hok (hno _)⟩
    rintro rfl
    exact hj hrd

/-! ## The register a step writes -/

theorem exec_responses {i : Instr} {s t : State} (h : exec i s = .next t) : t.responses = s.responses := by
  rcases exec_cases h with ⟨rd, v, -, -, rfl⟩ | ⟨d, -, -, rfl⟩ | ⟨-, rfl⟩ | ⟨-, -, rfl⟩ | ⟨-, rfl, -⟩ |
    ⟨req, -, -, -, ⟨-, rfl⟩ | ⟨x, xs, -, -, ⟨rd, v, -, rfl⟩ | ⟨rfl, -⟩⟩⟩ <;> simp

/-- An offered response stays offered or joins the responses of the run (R50). -/
theorem deliver_offers_or_transfers {s : State} {r : Response} (h : s.offered = some r) :
    (deliver s).offered = some r ∨ (deliver s).responses = s.responses ++ [r] := by
  obtain ⟨hsent, hheld⟩ := deliver_delivered s
  cases hy : s.rspReady
  · exact .inl (by rw [hheld (.inr hy), h])
  · exact .inr (by rw [hsent r h hy])

/-- From `s` to `t` no register but `T[rd]` changed, and the OK response with its content is offered or transferred. -/
def WritesAndAnswers (s t : State) (rd : TReg) : Prop :=
  (∀ j, j ≠ rd → t.uint j = s.uint j) ∧
    (t.offered = some (t.okAnswer rd) ∨ t.responses = s.responses ++ [t.okAnswer rd])

theorem runCommand_writes {c : Command} {s t : State} (h : runCommand c s = .next t) :
    (∀ j, t.uint j = s.uint j) ∨
      ∃ i rd, decode c = .ok i ∧ i.dest = some rd ∧ WritesAndAnswers s t rd := by
  rcases runCommand_cases h with ⟨-, rfl⟩ | ⟨i, u, hi, hu, rfl⟩
  · exact .inl fun j => by simp
  · rcases exec_writes hu with hall | ⟨rd, hrd, hok, hother⟩
    · exact .inl fun j => by rw [deliver_uint, hall]
    · refine .inr ⟨i, rd, hi, hrd, fun j hj => by rw [deliver_uint, hother j hj], ?_⟩
      rw [deliver_okAnswer, ← exec_responses hu]
      exact deliver_offers_or_transfers hok

/-- Without `RST` a step leaves every register alone, or it runs a command that changes its destination alone and
answers OK with the new content. -/
theorem step_writes {s t : State} (hr : s.rst = false) (h : step s = .next t) :
    (∀ j, t.uint j = s.uint j) ∨
      ∃ c i rd, s.commandToRun = some c ∧ decode c = .ok i ∧ i.dest = some rd ∧ WritesAndAnswers s t rd := by
  rcases step_cases h with ⟨hr', -⟩ | ⟨-, -, rfl⟩ | ⟨-, ho, c, hc, hrun⟩ | ⟨-, -, -, -, rfl⟩ |
    ⟨-, ho, hc, c, rest, hin, hrun⟩
  · simp [hr] at hr'
  · exact .inl (deliver_uint s)
  · obtain hall | ⟨i, rd, hw⟩ := runCommand_writes hrun
    · exact .inl hall
    · exact .inr ⟨c, i, rd, commandToRun_of_current ho hc, hw⟩
  · exact .inl fun j => rfl
  · have hrun' : s.commandToRun = some c := by rw [commandToRun_of_idle ho hc, hin, List.head?_cons]
    obtain hall | ⟨i, rd, hw⟩ := runCommand_writes hrun
    · exact .inl hall
    · exact .inr ⟨c, i, rd, hrun', hw⟩

/-- Settles O44: see `step_writes`. -/
theorem stepWritesAtMostOneRegister : Obligations.StepWritesAtMostOneRegister := by
  intro s t hr h j
  rcases step_writes hr h with hall | ⟨c, i, rd, hc, hi, hrd, hother, hok⟩
  · exact ⟨fun _ => hall j, fun _ => hall j⟩
  · refine ⟨fun hno => hother j ?_, fun ⟨hoff, hresp⟩ => hother j ?_⟩
    · rintro rfl
      exact hno c i hc hi hrd
    · rintro rfl
      exact hok.elim hoff hresp

end Sys2Proof.Machine
end

section
/-! Family 20_memory: the use of the random-source port (O32) and the commands that read a register (O34). -/

namespace Sys2Proof.Machine

/-! ## The random-source port -/

/-- From `s` to `t` nothing happened at the random-source port: no answer was consumed, no request offered, withdrawn,
transferred or answered. -/
def SameDrawPort (s t : State) : Prop :=
  t.drawIn = s.drawIn ∧ t.drawOffered = s.drawOffered ∧ t.drawPending = s.drawPending ∧
    t.drawRequests = s.drawRequests

/-- All that a meaning does at the random-source port: nothing, as every command but UNIFORM and NORMAL; or it makes
its request; or it makes its request and consumes the answer (R46, R106). -/
theorem exec_drawPort {i : Instr} {s t : State} (h : exec i s = .next t) :
    SameDrawPort s t ∨
      ∃ req, i.samples = true ∧ drawOf i = some req ∧
        (t = requestDraw req.kind req.sigma s ∨
          ∃ x xs, s.drawIn = x :: xs ∧ (s.drawPending ≠ none ∨ s.rngReady = true) ∧
            SameDrawPort (consumeDraw xs (requestDraw req.kind req.sigma s)) t) := by
  rcases exec_cases h with ⟨rd, v, -, -, rfl⟩ | ⟨d, -, -, rfl⟩ | ⟨-, rfl⟩ | ⟨-, -, rfl⟩ | ⟨-, rfl, -⟩ |
    ⟨req, hi, -, hreq, hdraw⟩
  · exact .inl ⟨rfl, rfl, rfl, rfl⟩
  · exact .inl ⟨rfl, rfl, rfl, rfl⟩
  · exact .inl ⟨rfl, rfl, rfl, rfl⟩
  · exact .inl ⟨rfl, rfl, rfl, rfl⟩
  · exact .inl ⟨rfl, rfl, rfl, rfl⟩
  · refine .inr ⟨req, hi, hreq, ?_⟩
    rcases hdraw with ⟨-, ht⟩ | ⟨x, xs, hx, hy, ⟨rd, v, -, rfl⟩ | ⟨rfl, -⟩⟩
    · exact .inl ht
    · exact .inr ⟨x, xs, hx, hy, rfl, rfl, rfl, rfl⟩
    · exact .inr ⟨x, xs, hx, hy, rfl, rfl, rfl, rfl⟩

theorem exec_sameDrawPort_of_not_samples {i : Instr} {s t : State} (hi : i.samples = false)
    (h : exec i s = .next t) : SameDrawPort s t := by
  rcases exec_drawPort h with hsame | ⟨req, hi', -⟩
  · exact hsame
  · simp [hi] at hi'

/-- After a request the port offers what it offered, nothing, or that request. -/
theorem requestDraw_offers (req : DrawRequest) (s : State) :
    (requestDraw req.kind req.sigma s).drawOffered = s.drawOffered ∨
      (requestDraw req.kind req.sigma s).drawOffered = none ∨
      (requestDraw req.kind req.sigma s).drawOffered = some req := by
  rw [requestDraw_drawOffered]
  split
  · exact .inl rfl
  · split
    · exact .inr (.inl rfl)
    · exact .inr (.inr rfl)

/-- A command's request is transferred when none is outstanding and the backend takes it, and then once (R46, R50). -/
theorem requestDraw_transfers {i : Instr} {req : DrawRequest} (hreq : drawOf i = some req) (s : State) :
    (requestDraw req.kind req.sigma s).drawRequests = s.drawRequests ∨
      s.drawPending = none ∧ s.rngReady = true ∧
        ∃ req', drawOf i = some req' ∧
          (requestDraw req.kind req.sigma s).drawRequests = s.drawRequests ++ [req'] := by
  rw [requestDraw_drawRequests]
  split
  · next hy => exact .inr ⟨hy.1, hy.2, req, hreq, rfl⟩
  · exact .inl rfl

/-- A command that can go on with an answer has its request transferred before, or now (R106). -/
theorem requestDraw_transferred (req : DrawRequest) {s : State} (h : s.drawPending ≠ none ∨ s.rngReady = true) :
    s.drawPending ≠ none ∨ (requestDraw req.kind req.sigma s).drawRequests ≠ s.drawRequests := by
  by_cases hp : s.drawPending = none
  · have hy : s.rngReady = true := h.resolve_left fun hno => hno hp
    exact .inr (by simp [hp, hy])
  · exact .inl hp

/-- Settles O32: `exec_drawPort` with what one request does (`requestDraw_offers`, `requestDraw_transfers`,
`requestDraw_transferred`). -/
theorem onlySamplingDrawsAndAtMostOnce : Obligations.OnlySamplingDrawsAndAtMostOnce := by
  intro i s t h
  refine ⟨fun hi => exec_sameDrawPort_of_not_samples hi h, ?_⟩
  rcases exec_drawPort h with ⟨hin, hoff, -, hrec⟩ | ⟨req, -, hreq, rfl | ⟨x, xs, hx, hy, hin, hoff, -, hrec⟩⟩
  · exact ⟨.inl hoff, .inl hrec, .inl hin⟩
  · exact ⟨hreq ▸ requestDraw_offers req s, requestDraw_transfers hreq s, .inl (requestDraw_drawIn ..)⟩
  · rw [consumeDraw_drawRequests] at hrec
    rw [hrec, hin, hoff]
    exact ⟨.inr (.inl rfl), requestDraw_transfers hreq s, .inr ⟨requestDraw_transferred req hy, x, hx⟩⟩

/-! ## The commands that read a register -/

/-- A command without a destination answers OK with data that the offered response, which it replaces, does not
enter. -/
theorem exec_of_no_dest {i : Instr} (hi : i.dest = none) (s : State) :
    ∃ d, exec i s = .next (respond .ok d s) ∧ ∀ st d', exec i (respond st d' s) = .next (respond .ok d s) := by
  cases i with
  | toraw a | toreal a | sign a => exact ⟨_, rfl, fun _ _ => rfl⟩
  | fromraw | fromreal | add | sub | neg | muli | mulr | uniform | normal => cases hi

/-- Settles O34: the three commands have no destination, and the first answer does not enter the second. -/
theorem readingTwiceAnswersTheSame : Obligations.ReadingTwiceAnswersTheSame := by
  intro a i s t hi h
  have hdest : i.dest = none := by
    simp only [List.mem_cons, List.not_mem_nil, or_false] at hi
    rcases hi with rfl | rfl | rfl <;> rfl
  obtain ⟨d, hfirst, hsecond⟩ := exec_of_no_dest hdest s
  obtain rfl : respond .ok d s = t := Host.Outcome.next.inj (hfirst.symm.trans h)
  exact ⟨hsecond .ok d, respond_uint .ok d s⟩

end Sys2Proof.Machine
end

section
/-! Family 30_encoding: the decoder and the encoder (O1, O2, O3, O4, O5), the command completed in one step (O46), and
the transfer of draw requests (O52). -/

namespace Sys2Proof

/-! ## What decodes to a command -/

theorem eq_wordOf {w : CmdWord} {op : Nat} {rd rs1 rs2 : TReg} (hz : zField w = 0) (hop : opField w = op)
    (hrd : rdField w = rd) (hrs1 : rs1Field w = rs1) (hrs2 : rs2Field w = rs2) : w = wordOf op rd rs1 rs2 := by
  rw [← hop, ← hrd, ← hrs1, ← hrs2, wordOf_fields w hz]

/-- `data` is a `DATA` from which R65 assembles the operand of the command: all of it for a raw or a real operand,
`DATA[31:0]` for MULI, and any for a command that ignores `DATA` (R52). -/
def Instr.OperandFrom (data : Data) : Instr → Prop
  | .fromraw _ d | .fromreal _ d | .mulr _ _ d | .normal _ d => data = d
  | .muli _ _ k => data.setWidth 32 = k
  | .toraw _ | .toreal _ | .sign _ | .add _ _ _ | .sub _ _ _ | .neg _ _ | .uniform _ => True

/-- The encoder puts the operand where R65 reads it. -/
theorem operandFrom_encode (i : Instr) : i.OperandFrom (encode i).data := by
  cases i with
  | fromraw | fromreal | mulr | normal => exact rfl
  | muli rd a k => simp [Instr.OperandFrom, encode]
  | toraw | toreal | sign | add | sub | neg | uniform => trivial

/-- The fields that the legality check wants at zero are those that the encoder leaves at zero, so a transfer that
decodes to a command has that command's word. -/
theorem word_operand_of_decode {c : Command} {i : Instr} (h : decode c = .ok i) :
    c.cmd = (encode i).cmd ∧ i.OperandFrom c.data := by
  simp only [decode] at h
  split at h
  case h_1 hop | h_2 hop | h_11 hop | h_12 hop =>
    obtain ⟨hz, hunused, rfl⟩ := legalIf_eq_ok.1 h
    exact ⟨eq_wordOf hz hop rfl (hunused _ (.head _)) (hunused _ (.tail _ (.head _))), by trivial⟩
  case h_3 hop | h_4 hop | h_5 hop =>
    obtain ⟨hz, hunused, rfl⟩ := legalIf_eq_ok.1 h
    exact ⟨eq_wordOf hz hop (hunused _ (.head _)) rfl (hunused _ (.tail _ (.head _))), trivial⟩
  case h_6 hop | h_7 hop =>
    obtain ⟨hz, -, rfl⟩ := legalIf_eq_ok.1 h
    exact ⟨eq_wordOf hz hop rfl rfl rfl, trivial⟩
  case h_8 hop | h_9 hop | h_10 hop =>
    obtain ⟨hz, hunused, rfl⟩ := legalIf_eq_ok.1 h
    exact ⟨eq_wordOf hz hop rfl rfl (hunused _ (.head _)), by trivial⟩
  case h_13 => cases h

/-- The fields of an encoded word are what the encoder put there (R57). -/
theorem fields_wordOf {op : Nat} (h : op < 16) (rd rs1 rs2 : TReg) :
    opField (wordOf op rd rs1 rs2) = op ∧ rdField (wordOf op rd rs1 rs2) = rd ∧
      rs1Field (wordOf op rd rs1 rs2) = rs1 ∧ rs2Field (wordOf op rd rs1 rs2) = rs2 ∧
      zField (wordOf op rd rs1 rs2) = 0 :=
  ⟨opField_wordOf h rd rs1 rs2, rdField_wordOf h rd rs1 rs2, rs1Field_wordOf h rd rs1 rs2,
    rs2Field_wordOf h rd rs1 rs2, zField_wordOf h rd rs1 rs2⟩

/-- The decoder takes the arm of the word's `OP`, and finds there the fields that the encoder wrote. -/
theorem decode_of_word_operand {c : Command} {i : Instr} (hw : c.cmd = (encode i).cmd) (hd : i.OperandFrom c.data) :
    decode c = .ok i := by
  cases i with
  | fromraw rd d | fromreal rd d | mulr rd a d | normal rd d | muli rd a d =>
    simp only [Instr.OperandFrom] at hd
    simp [decode, hw, encode, fields_wordOf, legalIf_eq_ok, hd]
  | toraw | toreal | sign | add | sub | neg | uniform =>
    simp [decode, hw, encode, fields_wordOf, legalIf_eq_ok]

/-- The decoder reads `i` exactly from the transfers with the word of `i` and with its operand (R51, R58, R65). -/
theorem decode_eq_ok_iff {c : Command} {i : Instr} :
    decode c = .ok i ↔ c.cmd = (encode i).cmd ∧ i.OperandFrom c.data :=
  ⟨word_operand_of_decode, fun ⟨hw, hd⟩ => decode_of_word_operand hw hd⟩

/-- Settles O1: the encoder's transfer has the word and the operand that the decoder asks for. -/
theorem decodeInvertsEncode : Obligations.DecodeInvertsEncode := fun i =>
  decode_eq_ok_iff.2 ⟨rfl, operandFrom_encode i⟩

/-- Settles O2: see `decode_eq_ok_iff`. -/
theorem legalWordIsTheEncodedWord : Obligations.LegalWordIsTheEncodedWord := fun _ _ h => (decode_eq_ok_iff.1 h).1

/-! ## The match and mask rows -/

/-- Every command's word lies in the command's row (R57). -/
theorem encode_matches_row (i : Instr) : (encode i).cmd &&& i.row.2 = i.row.1 := by
  cases i with
  | fromraw rd d => exact Laws.WordMatchesRow.fromraw rd d
  | fromreal rd f => exact Laws.WordMatchesRow.fromreal rd f
  | toraw a => exact Laws.WordMatchesRow.toraw a
  | toreal a => exact Laws.WordMatchesRow.toreal a
  | sign a => exact Laws.WordMatchesRow.sign a
  | add rd a b => exact Laws.WordMatchesRow.add rd a b
  | sub rd a b => exact Laws.WordMatchesRow.sub rd a b
  | neg rd a => exact Laws.WordMatchesRow.neg rd a
  | muli rd a k => exact Laws.WordMatchesRow.muli rd a k
  | mulr rd a k => exact Laws.WordMatchesRow.mulr rd a k
  | uniform rd => exact Laws.WordMatchesRow.uniform rd
  | normal rd sd => exact Laws.WordMatchesRow.normal rd sd

theorem row_mem_opcodeRows (i : Instr) : i.row ∈ opcodeRows := by
  cases i <;> simp [Instr.row, opcodeRows]

/-- Where the mask is all ones, a word that it maps to `v` has the bits of `v`. -/
theorem bits_eq_of_and_eq {w mask v : CmdWord} (h : w &&& mask = v) {pos len : Nat}
    (hmask : mask.toNat / 2 ^ pos % 2 ^ len = 2 ^ len - 1) :
    w.toNat / 2 ^ pos % 2 ^ len = v.toNat / 2 ^ pos % 2 ^ len := by
  rw [← h, BitVec.toNat_and, Nat.and_div_two_pow, Nat.and_mod_two_pow, hmask, Nat.and_two_pow_sub_one_eq_mod,
    Nat.mod_mod]

section masked

/-! A word that a mask takes to the bare `OP` of a row: its `OP` is that of the row, and a field that the mask covers is
zero. -/

variable {op : Nat} (hop : op < 16) {w mask : CmdWord} (h : w &&& mask = wordOf op 0 0 0)
include hop h

theorem opField_of_masked (hmask : mask.toNat / 2 ^ 12 % 2 ^ 4 = 2 ^ 4 - 1) : opField w = op := by
  have hbits := bits_eq_of_and_eq h hmask
  rw [wordOf_toNat hop] at hbits
  have hw := w.isLt
  simp only [opField]
  omega

theorem rdField_of_masked (hmask : mask.toNat / 2 ^ 9 % 2 ^ 3 = 2 ^ 3 - 1) : rdField w = 0 :=
  (Fin.ext (bits_eq_of_and_eq h hmask)).trans (rdField_wordOf hop 0 0 0)

theorem rs1Field_of_masked (hmask : mask.toNat / 2 ^ 6 % 2 ^ 3 = 2 ^ 3 - 1) : rs1Field w = 0 :=
  (Fin.ext (bits_eq_of_and_eq h hmask)).trans (rs1Field_wordOf hop 0 0 0)

theorem rs2Field_of_masked (hmask : mask.toNat / 2 ^ 3 % 2 ^ 3 = 2 ^ 3 - 1) : rs2Field w = 0 :=
  (Fin.ext (bits_eq_of_and_eq h hmask)).trans (rs2Field_wordOf hop 0 0 0)

theorem zField_of_masked (hmask : mask.toNat / 2 ^ 0 % 2 ^ 3 = 2 ^ 3 - 1) : zField w = 0 := by
  have hbits := bits_eq_of_and_eq h hmask
  rw [wordOf_toNat hop] at hbits
  simp only [zField]
  omega

end masked

/-! ## The words of a row, for each of the four masks -/

theorem word_of_rd_row {w : CmdWord} (op : Nat) (hop : op < 16) (h : w &&& 0xF1FF = wordOf op 0 0 0) :
    w = wordOf op (rdField w) 0 0 :=
  eq_wordOf (zField_of_masked hop h rfl) (opField_of_masked hop h rfl) rfl (rs1Field_of_masked hop h rfl)
    (rs2Field_of_masked hop h rfl)

theorem word_of_rs1_row {w : CmdWord} (op : Nat) (hop : op < 16) (h : w &&& 0xFE3F = wordOf op 0 0 0) :
    w = wordOf op 0 (rs1Field w) 0 :=
  eq_wordOf (zField_of_masked hop h rfl) (opField_of_masked hop h rfl) (rdField_of_masked hop h rfl) rfl
    (rs2Field_of_masked hop h rfl)

theorem word_of_rd_rs1_row {w : CmdWord} (op : Nat) (hop : op < 16) (h : w &&& 0xF03F = wordOf op 0 0 0) :
    w = wordOf op (rdField w) (rs1Field w) 0 :=
  eq_wordOf (zField_of_masked hop h rfl) (opField_of_masked hop h rfl) rfl rfl (rs2Field_of_masked hop h rfl)

theorem word_of_rd_rs1_rs2_row {w : CmdWord} (op : Nat) (hop : op < 16) (h : w &&& 0xF007 = wordOf op 0 0 0) :
    w = wordOf op (rdField w) (rs1Field w) (rs2Field w) :=
  eq_wordOf (zField_of_masked hop h rfl) (opField_of_masked hop h rfl) rfl rfl rfl

/-- A word of one of the rows is the word of a command. -/
theorem exists_word_of_row {w : CmdWord} {row : CmdWord × CmdWord} (hrow : row ∈ opcodeRows)
    (h : w &&& row.2 = row.1) (data : Data) : ∃ i : Instr, w = (encode i).cmd ∧ i.OperandFrom data := by
  simp only [opcodeRows, List.mem_cons, List.not_mem_nil, or_false] at hrow
  rcases hrow with rfl | rfl | rfl | rfl | rfl | rfl | rfl | rfl | rfl | rfl | rfl | rfl
  · exact ⟨.fromraw (rdField w) data, word_of_rd_row 0x1 (by decide) h, rfl⟩
  · exact ⟨.fromreal (rdField w) data, word_of_rd_row 0x2 (by decide) h, rfl⟩
  · exact ⟨.toraw (rs1Field w), word_of_rs1_row 0x3 (by decide) h, trivial⟩
  · exact ⟨.toreal (rs1Field w), word_of_rs1_row 0x4 (by decide) h, trivial⟩
  · exact ⟨.sign (rs1Field w), word_of_rs1_row 0x5 (by decide) h, trivial⟩
  · exact ⟨.add (rdField w) (rs1Field w) (rs2Field w), word_of_rd_rs1_rs2_row 0x6 (by decide) h, trivial⟩
  · exact ⟨.sub (rdField w) (rs1Field w) (rs2Field w), word_of_rd_rs1_rs2_row 0x7 (by decide) h, trivial⟩
  · exact ⟨.neg (rdField w) (rs1Field w), word_of_rd_rs1_row 0x8 (by decide) h, trivial⟩
  · exact ⟨.muli (rdField w) (rs1Field w) (data.setWidth 32), word_of_rd_rs1_row 0x9 (by decide) h, rfl⟩
  · exact ⟨.mulr (rdField w) (rs1Field w) data, word_of_rd_rs1_row 0xA (by decide) h, rfl⟩
  · exact ⟨.uniform (rdField w), word_of_rd_row 0xB (by decide) h, trivial⟩
  · exact ⟨.normal (rdField w) data, word_of_rd_row 0xC (by decide) h, rfl⟩

/-- A decoded word lies in the row of its command (R57). -/
theorem matches_row_of_decode {c : Command} {i : Instr} (h : decode c = .ok i) : c.cmd &&& i.row.2 = i.row.1 := by
  rw [(decode_eq_ok_iff.1 h).1, encode_matches_row]

/-- Settles O3: a decoded word is the encoder's, which lies in its row, and a word of a row is the encoder's. -/
theorem decoderAcceptsExactlyTheTableRows : Obligations.DecoderAcceptsExactlyTheTableRows := by
  refine fun w data => ⟨⟨?_, ?_⟩, fun i h => matches_row_of_decode h⟩
  · rintro ⟨i, h⟩
    exact ⟨i.row, row_mem_opcodeRows i, matches_row_of_decode h⟩
  · rintro ⟨row, hrow, h⟩
    obtain ⟨i, hw, hd⟩ := exists_word_of_row hrow h data
    exact ⟨i, decode_of_word_operand hw hd⟩

/-! ## The bits of DATA that no command reads -/

/-- `OP` as R51 cuts it out of the word. -/
theorem opField_eq_toNat_shiftRight (w : CmdWord) : opField w = (w >>> 12).toNat := by
  rw [BitVec.toNat_ushiftRight, Nat.shiftRight_eq_div_pow, opField]

theorem setWidth_eq_of_toNat_mod_eq {n : Nat} {d d' : Data} (h : d.toNat % 2 ^ n = d'.toNat % 2 ^ n) :
    d.setWidth n = d'.setWidth n :=
  BitVec.eq_of_toNat_eq (by simpa only [BitVec.toNat_setWidth] using h)

/-- The arms of the commands without an operand do not look at `DATA` (R52). -/
theorem decode_data_irrelevant {w : CmdWord} (h : opField w ∈ [0x3, 0x4, 0x5, 0x6, 0x7, 0x8, 0xB]) (d d' : Data) :
    decode ⟨w, d⟩ = decode ⟨w, d'⟩ := by
  simp only [List.mem_cons, List.not_mem_nil, or_false] at h
  rcases h with h | h | h | h | h | h | h <;> simp only [decode, h]

/-- Settles O5: the arms without an operand ignore `DATA`, and MULI and FROMRAW read it through `setWidth`. -/
theorem unreadDataBitsAreIgnored : Obligations.UnreadDataBitsAreIgnored := by
  refine ⟨fun w d d' hw => decode_data_irrelevant ?_ d d', fun w d d' hw hd => ?_, fun s rd d d' hd => ?_⟩
  · rw [opField_eq_toNat_shiftRight]
    exact List.mem_map_of_mem (f := BitVec.toNat) hw
  · have hop : opField w = 0x9 := by rw [opField_eq_toNat_shiftRight, hw]; rfl
    simp only [decode, hop, setWidth_eq_of_toNat_mod_eq hd]
  · have hraw : Machine.rawOperand s.cfg.w d = Machine.rawOperand s.cfg.w d' := setWidth_eq_of_toNat_mod_eq hd
    simp only [Machine.exec, Machine.execFromraw, hraw]

/-- Settles O4: nine closed words, each decoded by evaluation. -/
theorem writtenWordsDecode : Obligations.WrittenWordsDecode := by
  unfold Obligations.WrittenWordsDecode
  decide

end Sys2Proof

namespace Sys2Proof.Machine

/-! ## One command, one response -/

theorem deliver_of_ready {s : State} {r : Response} (ho : s.offered = some r) (hy : s.rspReady = true) :
    deliver s = { s with offered := none, current := none, responses := s.responses ++ [r] } :=
  (deliver_delivered s).1 r ho hy

/-- No meaning changes what the host drives: its readiness and the commands it offers. -/
theorem exec_host {i : Instr} {s t : State} (h : exec i s = .next t) :
    t.rspReady = s.rspReady ∧ t.cmdIn = s.cmdIn := by
  rcases exec_cases h with ⟨rd, v, -, -, rfl⟩ | ⟨d, -, -, rfl⟩ | ⟨-, rfl⟩ | ⟨-, -, rfl⟩ | ⟨-, rfl, -⟩ |
    ⟨req, -, -, -, ⟨-, rfl⟩ | ⟨x, xs, -, -, ⟨rd, v, -, rfl⟩ | ⟨rfl, -⟩⟩⟩ <;> simp

/-- Only a draw makes a command wait: with an answer at hand and a backend that takes requests, or without a draw, it
answers at once (R106, R146). -/
theorem exec_answers {i : Instr} {s t : State} (h : exec i s = .next t)
    (hdraw : s.rngReady = true ∧ s.drawIn ≠ [] ∨ i.samples = false) : ∃ r, t.offered = some r := by
  rcases exec_cases h with ⟨rd, v, -, -, rfl⟩ | ⟨d, -, -, rfl⟩ | ⟨-, rfl⟩ | ⟨-, -, rfl⟩ | ⟨-, rfl, -⟩ |
    ⟨req, hi, -, -, ⟨hwait, -⟩ | ⟨x, xs, -, -, ⟨rd, v, -, rfl⟩ | ⟨rfl, -⟩⟩⟩
  · exact ⟨_, rfl⟩
  · exact ⟨_, rfl⟩
  · exact ⟨_, rfl⟩
  · exact ⟨_, rfl⟩
  · exact ⟨_, rfl⟩
  · rcases hdraw with ⟨hy, hne⟩ | hno
    · rcases hwait with hnil | ⟨-, hy'⟩
      · exact absurd hnil hne
      · simp [hy] at hy'
    · simp [hi] at hno
  · exact ⟨_, rfl⟩
  · exact ⟨_, rfl⟩

/-- A command that is answered at once, while the host takes responses, leaves the unit without a command and one
response further. -/
theorem runCommand_completes {c : Command} {s t : State} (h : runCommand c s = .next t) (hy : s.rspReady = true)
    (hdraw : s.rngReady = true ∧ s.drawIn ≠ [] ∨ ∀ i, decode c = .ok i → i.samples = false) :
    t.current = none ∧ t.cmdIn = s.cmdIn ∧ ∃ r, t.responses = s.responses ++ [r] := by
  rcases runCommand_cases h with ⟨-, rfl⟩ | ⟨i, u, hi, hu, rfl⟩
  · rw [deliver_of_ready (raise_offered .illegalCmd s) hy]
    exact ⟨rfl, rfl, _, rfl⟩
  · obtain ⟨hready, hin⟩ := exec_host hu
    obtain ⟨r, hr⟩ := exec_answers hu (hdraw.imp_right fun hno => hno i hi)
    rw [deliver_of_ready hr (hready.trans hy)]
    exact ⟨rfl, hin, r, by simp [exec_responses hu]⟩

theorem idle_of_coherent_of_no_command {s : State} (h : Coherent s) (hc : s.current = none) : s.Idle := by
  rcases coherent_cases h with hidle | ⟨c, r, hc', -⟩ | ⟨c, i, req, hc', -⟩
  · exact hidle
  · simp [hc] at hc'
  · simp [hc] at hc'

/-- Settles O46: the step runs the first offered command to its response, and a legal state without a command is
idle. -/
theorem oneStepOneCommandOneResponse : Obligations.OneStepOneCommandOneResponse := by
  intro s c rest hr hidle hy hin hdraw
  obtain ⟨t, ht⟩ := step_total s
  have hcoh : Coherent t := step_coherent (coherent_of_idle hidle) ht
  obtain ⟨hc, ho, -, -⟩ := hidle
  have hrun : runCommand c (accept c rest s) = .next t := by rw [← step_of_offered_command hr ho hc hin, ht]
  obtain ⟨hc', hin', r, hresp⟩ := runCommand_completes hrun hy hdraw
  exact ⟨t, r, ht, idle_of_coherent_of_no_command hcoh hc', hin', hresp⟩

/-! ## The transfer of draw requests -/

/-- From `s` to `t` at most one request was transferred, and that while the backend takes requests and none was
outstanding; while it takes none and none was outstanding, nothing passed the random-source port (R50, R106). -/
def TransfersOnlyWhenTaken (s t : State) : Prop :=
  (t.drawRequests = s.drawRequests ∨
    s.rngReady = true ∧ s.drawPending = none ∧ ∃ req, t.drawRequests = s.drawRequests ++ [req]) ∧
  (s.drawPending = none → s.rngReady = false →
    t.drawIn = s.drawIn ∧ t.drawPending = none ∧ t.drawRequests = s.drawRequests)

theorem SameDrawPort.transfersOnlyWhenTaken {s t : State} (h : SameDrawPort s t) : TransfersOnlyWhenTaken s t := by
  obtain ⟨hin, -, hp, hrec⟩ := h
  exact ⟨.inl hrec, fun hnone _ => ⟨hin, hp.trans hnone, hrec⟩⟩

theorem SameDrawPort.of_deliver (s : State) : SameDrawPort s (deliver s) :=
  ⟨deliver_drawIn s, deliver_drawOffered s, deliver_drawPending s, deliver_drawRequests s⟩

/-- A transfer is told by the three fields below, so what leaves them alone afterwards does not matter. -/
theorem TransfersOnlyWhenTaken.then_same {s t u : State} (h : TransfersOnlyWhenTaken s t) (hsame : SameDrawPort t u) :
    TransfersOnlyWhenTaken s u := by
  obtain ⟨hin, -, hp, hrec⟩ := hsame
  simpa only [TransfersOnlyWhenTaken, hin, hp, hrec] using h

theorem requestDraw_transfersOnlyWhenTaken (req : DrawRequest) (s : State) :
    TransfersOnlyWhenTaken s (requestDraw req.kind req.sigma s) := by
  refine ⟨?_, fun hp hy => by simp [hp, hy]⟩
  rw [requestDraw_drawRequests]
  split
  · next hy => exact .inr ⟨hy.2, hy.1, req, rfl⟩
  · exact .inl rfl

/-- An answer is consumed only by a command whose request is transferred (R106). -/
theorem consumeDraw_transfersOnlyWhenTaken (req : DrawRequest) {s : State} (xs : List Data)
    (hy : s.drawPending ≠ none ∨ s.rngReady = true) :
    TransfersOnlyWhenTaken s (consumeDraw xs (requestDraw req.kind req.sigma s)) := by
  refine ⟨(requestDraw_transfersOnlyWhenTaken req s).1, fun hp hno => ?_⟩
  simp [hp, hno] at hy

theorem exec_transfersOnlyWhenTaken {i : Instr} {s t : State} (h : exec i s = .next t) :
    TransfersOnlyWhenTaken s t := by
  rcases exec_drawPort h with hsame | ⟨req, -, -, rfl | ⟨x, xs, -, hy, hsame⟩⟩
  · exact hsame.transfersOnlyWhenTaken
  · exact requestDraw_transfersOnlyWhenTaken req s
  · exact (consumeDraw_transfersOnlyWhenTaken req xs hy).then_same hsame

theorem runCommand_transfersOnlyWhenTaken {c : Command} {s t : State} (h : runCommand c s = .next t) :
    TransfersOnlyWhenTaken s t := by
  rcases runCommand_cases h with ⟨-, rfl⟩ | ⟨i, u, -, hu, rfl⟩
  · have hraise : SameDrawPort s (raise .illegalCmd s) := ⟨rfl, rfl, rfl, rfl⟩
    exact hraise.transfersOnlyWhenTaken.then_same (.of_deliver _)
  · exact (exec_transfersOnlyWhenTaken hu).then_same (.of_deliver u)

/-- A reset transfers no request and, with none outstanding, discards no answer (R140, R142). -/
theorem applyReset_transfersOnlyWhenTaken (s : State) : TransfersOnlyWhenTaken s (applyReset s) :=
  ⟨.inl rfl, fun hp _ => ⟨applyReset_drawIn_of_none s hp, rfl, rfl⟩⟩

theorem step_transfersOnlyWhenTaken {s t : State} (h : step s = .next t) : TransfersOnlyWhenTaken s t := by
  rcases step_cases h with ⟨-, rfl⟩ | ⟨-, -, rfl⟩ | ⟨-, -, c, -, hrun⟩ | ⟨-, -, -, -, rfl⟩ |
    ⟨-, -, -, c, rest, -, hrun⟩
  · exact applyReset_transfersOnlyWhenTaken s
  · exact (SameDrawPort.of_deliver s).transfersOnlyWhenTaken
  · exact runCommand_transfersOnlyWhenTaken hrun
  · exact SameDrawPort.transfersOnlyWhenTaken ⟨rfl, rfl, rfl, rfl⟩
  · exact runCommand_transfersOnlyWhenTaken (s := accept c rest s) hrun

/-- A command whose request the backend does not take waits with the request offered (R50). -/
theorem exec_of_draw_not_taken {i : Instr} {req : DrawRequest} {s : State} (hreq : drawOf i = some req)
    (hr : s.cfg.hasRng = true) (hp : s.drawPending = none) (hy : s.rngReady = false) :
    exec i s = .next { s with drawOffered := some req } := by
  obtain ⟨t, ht⟩ := exec_total i s
  rcases exec_cases ht with ⟨-, -, hi, -⟩ | ⟨-, hi, -⟩ | ⟨hi, -⟩ | ⟨-, hr', -⟩ | ⟨-, -, rd, sd, rfl, hsd⟩ |
    ⟨req', -, -, hreq', ⟨-, rfl⟩ | ⟨-, -, -, hy', -⟩⟩
  · simp [drawOf_of_not_samples hi] at hreq
  · simp [drawOf_of_not_samples hi] at hreq
  · simp [drawOf_of_not_samples hi] at hreq
  · simp [hr] at hr'
  · simp [drawOf, hsd] at hreq
  · obtain rfl : req = req' := Option.some.inj (hreq.symm.trans hreq')
    rw [ht, requestDraw_of_not_ready _ _ hp hy]
  · simp [hp, hy] at hy'

/-- Such a wait gives no response (R50, R146). -/
theorem runCommand_of_draw_not_taken {c : Command} {i : Instr} {req : DrawRequest} {s t : State}
    (h : runCommand c s = .next t) (ho : s.offered = none) (hi : decode c = .ok i) (hreq : drawOf i = some req)
    (hr : s.cfg.hasRng = true) (hp : s.drawPending = none) (hy : s.rngReady = false) :
    t.offered = none ∧ t.responses = s.responses ∧ t.drawOffered = some req := by
  rw [runCommand_of_exec hi (exec_of_draw_not_taken hreq hr hp hy), deliver_of_none (by exact ho)] at h
  cases h
  exact ⟨ho, rfl, rfl⟩

/-- A step without `RST` that has a command to run goes on with it, or takes it from the host (R145). -/
theorem step_of_commandToRun {s : State} {c : Command} (hr : s.rst = false) (h : s.commandToRun = some c) :
    s.offered = none ∧ (step s = runCommand c s ∨ ∃ rest, step s = runCommand c (accept c rest s)) := by
  cases ho : s.offered with
  | some r => simp [commandToRun_of_offered ho] at h
  | none =>
    refine ⟨rfl, ?_⟩
    cases hc : s.current with
    | some c' =>
      obtain rfl : c' = c := Option.some.inj ((commandToRun_of_current ho hc).symm.trans h)
      exact .inl (step_of_current hr ho hc)
    | none =>
      rw [commandToRun_of_idle ho hc] at h
      obtain ⟨rest, hin⟩ := List.head?_eq_some_iff.1 h
      exact .inr ⟨rest, step_of_offered_command hr ho hc hin⟩

/-- Settles O52: `step_transfersOnlyWhenTaken`, with the reset's step apart; a request that is not taken is a wait with
the request offered (`runCommand_of_draw_not_taken`). -/
theorem requestsAreTransferredWhenTheBackendTakesThem :
    Obligations.RequestsAreTransferredWhenTheBackendTakesThem := by
  intro s t h
  obtain ⟨hrec, hnotaken⟩ := step_transfersOnlyWhenTaken h
  refine ⟨?_, hnotaken, fun hr hy hp c i req hc hi hreq hrng => ?_, fun hr => ?_⟩
  · cases hr : s.rst with
    | true => rw [step_of_rst hr] at h; cases h; exact .inl rfl
    | false => exact hrec.imp_right fun ⟨hy, hp, hreq⟩ => ⟨rfl, hy, hp, hreq⟩
  · obtain ⟨ho, hstep | ⟨rest, hstep⟩⟩ := step_of_commandToRun hr hc
    · exact runCommand_of_draw_not_taken (hstep ▸ h) ho hi hreq hrng hp hy
    · exact runCommand_of_draw_not_taken (s := accept c rest s) (hstep ▸ h) ho hi hreq hrng hp hy
  · rw [step_of_rst hr] at h
    cases h
    rfl

end Sys2Proof.Machine
end

section
/-! Family 40_construct_convert: the construction and conversion commands (O6, O7, O8, O9), the laws of FROMREAL (O21)
and the round trips (O22). -/

namespace Sys2Proof.Machine

/-! ## The raw conversions -/

/-- Settles O6: FROMRAW ends with `finish` on the low bits of DATA. -/
theorem fromrawStoresTheRawValue : Obligations.FromrawStoresTheRawValue := by
  refine fun rd => ⟨fun data => decode_of_word_operand (by simp [encode, wordOf]) rfl, fun data s => ⟨_, rfl, ?_⟩⟩
  simpa [rawOperand] using finish_writesOnly s rd (rawOperand s.cfg.w data)

/-- Settles O8: TORAW responds with the register's pattern, widened to the port. -/
theorem torawReadsTheRawValue : Obligations.TorawReadsTheRawValue := by
  refine fun a => ⟨fun data => decode_of_word_operand (by simp [encode, wordOf]) trivial, fun s => ?_⟩
  have hzext : zext64 (s.torus a) = BitVec.ofNat 64 (s.uint a) := zext64_eq s (s.torus a)
  rw [← hzext]
  rfl

/-! ## The value that FROMREAL computes (R76) -/

/-- The integer procedure gives `floor(x * 2^W) mod 2^W`, the short form of R76. -/
theorem fromReal_toNat (w : Nat) {f : Data} {x : ℚ} (hf : fval f = some x) :
    ((fromReal w f).toNat : ℤ) = ⌊x * 2 ^ w⌋ % 2 ^ w := by
  rw [fval_eq_fdec ((fval_isSome_iff f).1 ⟨x, hf⟩), Option.some.injEq] at hf
  rw [fromReal, floorScaleIsTheFloorOfTheRational, zpow_add₀ two_ne_zero, zpow_natCast, ← mul_assoc, hf]

/-- Reducing modulo 1 before scaling takes a whole multiple of `2^W` off the scaled value. -/
theorem fraction_mul_two_pow (x : ℚ) (w : Nat) : (x - ⌊x⌋) * 2 ^ w = x * 2 ^ w - ((⌊x⌋ * 2 ^ w : ℤ) : ℚ) := by
  push_cast
  ring

/-- The three steps of R76, reduction, scaling and truncation, agree with the short form `floor(x * 2^W) mod 2^W`. -/
theorem floor_fraction_mul_two_pow (x : ℚ) (w : Nat) : ⌊(x - ⌊x⌋) * 2 ^ w⌋ = ⌊x * 2 ^ w⌋ % 2 ^ w := by
  have hpow : (0 : ℚ) < 2 ^ w := by positivity
  have hlo : 0 ≤ ⌊(x - ⌊x⌋) * 2 ^ w⌋ := Int.floor_nonneg.2 (mul_nonneg (Int.fract_nonneg x) hpow.le)
  have hhi : ⌊(x - ⌊x⌋) * 2 ^ w⌋ < 2 ^ w := by
    rw [Int.floor_lt]
    push_cast
    exact mul_lt_of_lt_one_left hpow (Int.fract_lt_one x)
  rw [← Int.emod_eq_of_lt hlo hhi, fraction_mul_two_pow, Int.floor_sub_intCast, Int.sub_mul_emod_self_right]

/-- FROMREAL reduces modulo 1, scales and truncates on exact rationals (R76). -/
theorem fromReal_toNat_eq_floor_fraction (w : Nat) {f : Data} {x : ℚ} (hf : fval f = some x) :
    ((fromReal w f).toNat : ℤ) = ⌊(x - ⌊x⌋) * 2 ^ w⌋ := by
  rw [fromReal_toNat w hf, floor_fraction_mul_two_pow]

theorem exec_fromreal_of_fval (rd : TReg) (s : State) {f : Data} {x : ℚ} (hf : fval f = some x) :
    exec (.fromreal rd f) s = .next (finish s rd (fromReal s.cfg.w f)) :=
  congrArg _ (encodeReal_of_finite rd s ((ffinite_iff f).2 ((fval_isSome_iff f).1 ⟨x, hf⟩)))

theorem exec_fromreal_of_fval_none (rd : TReg) (s : State) {f : Data} (hf : fval f = none) :
    exec (.fromreal rd f) s = .next (raise .invalidInput s) :=
  congrArg _ (encodeReal_of_not_finite rd s (by simp [ffinite, (fval_eq_none_iff f).1 hf]))

/-- Settles O7: `finish` writes the floor of the scaled fraction; without a value, `raise`. -/
theorem fromrealReducesScalesAndFloors : Obligations.FromrealReducesScalesAndFloors := by
  refine fun rd => ⟨fun data => decode_of_word_operand (by simp [encode, wordOf]) rfl,
    fun f s => ⟨fun x hf => ⟨_, exec_fromreal_of_fval rd s hf, ?_⟩, exec_fromreal_of_fval_none rd s⟩⟩
  rw [← fromReal_toNat_eq_floor_fraction _ hf, Int.toNat_natCast]
  exact finish_writesOnly s rd _

/-! ## The laws of FROMREAL (R77) -/

/-- FROMREAL has period 1. -/
theorem fromReal_eq_of_integer_apart (w : Nat) {f g : Data} {x : ℚ} {k : ℤ} (hf : fval f = some x)
    (hg : fval g = some (x + k)) : fromReal w g = fromReal w f := by
  apply BitVec.eq_of_toNat_eq
  zify
  rw [fromReal_toNat_eq_floor_fraction w hg, fromReal_toNat_eq_floor_fraction w hf, Int.floor_add_intCast]
  push_cast
  ring_nf

/-- What FROMREAL loses is the fraction of the scaled value, in units of the grid step `2^-W`. -/
theorem fromReal_error (w : Nat) {f : Data} {x : ℚ} (hf : fval f = some x) :
    (x - ⌊x⌋) - ((fromReal w f).toNat : ℚ) / 2 ^ w = Int.fract (x * 2 ^ w) / 2 ^ w := by
  have hpow : (2 : ℚ) ^ w ≠ 0 := by positivity
  have hinner : ((fromReal w f).toNat : ℚ) = ⌊(x - ⌊x⌋) * 2 ^ w⌋ := by
    exact_mod_cast fromReal_toNat_eq_floor_fraction w hf
  calc (x - ⌊x⌋) - ((fromReal w f).toNat : ℚ) / 2 ^ w
      = Int.fract ((x - ⌊x⌋) * 2 ^ w) / 2 ^ w := by
        rw [hinner, ← Int.self_sub_floor, sub_div, mul_div_cancel_right₀ _ hpow]
    _ = Int.fract (x * 2 ^ w) / 2 ^ w := by rw [fraction_mul_two_pow, Int.fract_sub_intCast]

theorem fromReal_error_bounds (w : Nat) {f : Data} {x : ℚ} (hf : fval f = some x) :
    0 ≤ (x - ⌊x⌋) - ((fromReal w f).toNat : ℚ) / 2 ^ w ∧
      (x - ⌊x⌋) - ((fromReal w f).toNat : ℚ) / 2 ^ w < 1 / 2 ^ w := by
  rw [fromReal_error w hf]
  have hpow : (0 : ℚ) < 2 ^ w := by positivity
  exact ⟨div_nonneg (Int.fract_nonneg _) hpow.le, div_lt_div_of_pos_right (Int.fract_lt_one _) hpow⟩

/-- The conversion is exact exactly for the values on the grid (R80). -/
theorem fromReal_error_eq_zero_iff (w : Nat) {f : Data} {x : ℚ} (hf : fval f = some x) :
    (x - ⌊x⌋) - ((fromReal w f).toNat : ℚ) / 2 ^ w = 0 ↔ ∃ n : ℤ, x * 2 ^ w = n := by
  have hpow : (2 : ℚ) ^ w ≠ 0 := by positivity
  rw [fromReal_error w hf, div_eq_zero_iff, or_iff_left hpow, Int.fract_eq_zero_iff]
  exact exists_congr fun n => eq_comm

theorem fromReal_toNat_of_grid (w : Nat) {f : Data} {x : ℚ} {n : ℤ} (hf : fval f = some x) (hn : x * 2 ^ w = n) :
    ((fromReal w f).toNat : ℤ) = n % 2 ^ w := by
  rw [fromReal_toNat w hf, hn, Int.floor_intCast]

/-- The patterns of 0.5, 1.5 and -0.5 lie at a whole distance from one half. -/
theorem fval_eq_half_add_integer {f : Data}
    (hf : f ∈ ([0x3FE0000000000000, 0x3FF8000000000000, 0xBFE0000000000000] : List Data)) :
    ∃ k : ℤ, fval f = some ((1 / 2 : ℚ) + k) := by
  simp only [List.mem_cons, List.not_mem_nil, or_false] at hf
  rcases hf with rfl | rfl | rfl
  · exact ⟨0, by decide +kernel⟩
  · exact ⟨1, by decide +kernel⟩
  · exact ⟨-1, by decide +kernel⟩

/-- One half and everything at a whole distance from it is `2^(W-1)` on the torus. -/
theorem fromReal_toNat_of_half {w : Nat} (hw : 1 ≤ w) {f : Data} {k : ℤ} (hf : fval f = some ((1 / 2 : ℚ) + k)) :
    (fromReal w f).toNat = 2 ^ (w - 1) := by
  obtain ⟨v, rfl⟩ := Nat.exists_eq_add_of_le' hw
  have hgrid : (1 / 2 + k : ℚ) * 2 ^ (v + 1) = ((2 ^ v + k * 2 ^ (v + 1) : ℤ) : ℚ) := by
    push_cast
    ring
  have hlt : (2 : ℤ) ^ v < 2 ^ (v + 1) := pow_lt_pow_right₀ (by norm_num) v.lt_succ_self
  zify
  rw [fromReal_toNat_of_grid _ hf hgrid, Int.add_mul_emod_self_right, Int.emod_eq_of_lt (by positivity) hlt,
    Nat.add_sub_cancel]

/-- Settles O21: the laws of `fromReal`, read off the register that FROMREAL has written. -/
theorem fromrealLaws : Obligations.FromrealLaws := by
  intro s t rd f x hf h
  rw [exec_fromreal_of_fval rd s hf] at h
  cases h
  rw [finish_uint_self]
  refine ⟨fun g k u hg hu => ?_, fromReal_error_bounds _ hf, fun n hn => fromReal_toNat_of_grid _ hf hn, fun hmem => ?_⟩
  · rw [exec_fromreal_of_fval rd s hg, fromReal_eq_of_integer_apart _ hf hg] at hu
    cases hu
    rfl
  · obtain ⟨k, hk⟩ := fval_eq_half_add_integer hmem
    exact fromReal_toNat_of_half s.cfg.wPos hk

/-! ## The pattern that TOREAL responds (R79) -/

/-- The fields of a pattern put together from an exponent and a mantissa, with the sign bit clear (R12). -/
theorem fields_of_packed {e m : Nat} (he : e < 2 ^ 11) (hm : m < 2 ^ 52) :
    fsign (BitVec.ofNat 64 (e * 2 ^ 52 + m)) = false ∧ fexp (BitVec.ofNat 64 (e * 2 ^ 52 + m)) = e ∧
      fman (BitVec.ofNat 64 (e * 2 ^ 52 + m)) = m := by
  refine ⟨?_, ?_, ?_⟩
  · have hlt : e * 2 ^ 52 + m < 2 ^ 63 := by omega
    rw [fsign, BitVec.getLsbD_ofNat, Nat.testBit_lt_two_pow hlt, Bool.and_false]
  · simp only [fexp, BitVec.toNat_ofNat]; omega
  · simp only [fman, BitVec.toNat_ofNat]; omega

/-- The significand: `n`, shifted up until its leading one has the weight `2^52`. -/
theorem log2_shift_bounds {n : Nat} (hn : n ≠ 0) (hp : Nat.log2 n ≤ 52) :
    2 ^ 52 ≤ n * 2 ^ (52 - Nat.log2 n) ∧ n * 2 ^ (52 - Nat.log2 n) < 2 ^ 53 := by
  have hlo : 2 ^ Nat.log2 n ≤ n := Nat.log2_self_le hn
  have hhi : n < 2 ^ (Nat.log2 n + 1) := Nat.lt_log2_self
  constructor
  · calc 2 ^ 52 = 2 ^ Nat.log2 n * 2 ^ (52 - Nat.log2 n) := by rw [← pow_add, Nat.add_sub_cancel' hp]
      _ ≤ n * 2 ^ (52 - Nat.log2 n) := Nat.mul_le_mul_right _ hlo
  · calc n * 2 ^ (52 - Nat.log2 n) < 2 ^ (Nat.log2 n + 1) * 2 ^ (52 - Nat.log2 n) :=
          Nat.mul_lt_mul_of_pos_right hhi (by positivity)
      _ = 2 ^ 53 := by rw [← pow_add]; congr 1; omega

/-- `n / 2^W` for `n < 2^W` has an exact pattern with the sign bit clear, and `toReal` builds it (R79). -/
theorem toReal_exact {w n : Nat} (hw : w ≤ 32) (hn : n < 2 ^ w) :
    fval (toReal w n) = some ((n : ℚ) / 2 ^ w) ∧ fsign (toReal w n) = false := by
  by_cases h0 : n = 0
  · subst h0
    exact ⟨by simp [toReal, fval, fexp, fman], by simp [toReal, fsign]⟩
  have hp : Nat.log2 n < w := (Nat.log2_lt h0).2 hn
  obtain ⟨hlo, hhi⟩ := log2_shift_bounds h0 (by omega)
  obtain ⟨hsign, hexp, hman⟩ := fields_of_packed (e := 1023 + Nat.log2 n - w)
    (m := n * 2 ^ (52 - Nat.log2 n) % 2 ^ 52) (by omega) (Nat.mod_lt _ (by positivity))
  have hpattern : toReal w n =
      BitVec.ofNat 64 ((1023 + Nat.log2 n - w) * 2 ^ 52 + n * 2 ^ (52 - Nat.log2 n) % 2 ^ 52) := by
    simp only [toReal, h0, if_false]
  rw [← hpattern] at hsign hexp hman
  have hsig : (2 ^ 52 + fman (toReal w n) : ℚ) = n * 2 ^ (52 - Nat.log2 n) := by
    rw [hman]
    exact_mod_cast (by omega : 2 ^ 52 + n * 2 ^ (52 - Nat.log2 n) % 2 ^ 52 = n * 2 ^ (52 - Nat.log2 n))
  refine ⟨?_, hsign⟩
  have hshift : (2 : ℚ) ^ (52 - Nat.log2 n) * (2 : ℚ) ^ ((fexp (toReal w n) : ℤ) - 1075) = (2 ^ w)⁻¹ := by
    rw [hexp, ← zpow_natCast, ← zpow_natCast, ← zpow_add₀ two_ne_zero, ← zpow_neg]
    congr 1
    omega
  rw [fval_of_normal (by omega) (by omega), hsign, hsig, if_neg Bool.false_ne_true, one_mul, mul_assoc, hshift,
    div_eq_mul_inv]

theorem exec_toreal (a : TReg) (s : State) :
    exec (.toreal a) s = .next { s with offered := some ⟨.ok, toReal s.cfg.w (s.uint a)⟩ } := rfl

/-- Settles O9: the response is the pattern of `toReal_exact`. -/
theorem torealIsExact : Obligations.TorealIsExact := by
  refine fun a => ⟨fun data => decode_of_word_operand (by simp [encode, wordOf]) trivial, fun s => ?_⟩
  obtain ⟨hval, hsign⟩ := toReal_exact s.cfg.wMax (uint_lt s a)
  refine ⟨_, exec_toreal a s, hval, hsign, (div_lt_one (by positivity)).2 ?_⟩
  exact_mod_cast uint_lt s a

/-! ## The round trips (R80) -/

/-- The value of a `W`-bit pattern lies on the grid, so FROMREAL takes it back exactly. -/
theorem fromReal_toReal {w n : Nat} (hw : w ≤ 32) (hn : n < 2 ^ w) : (fromReal w (toReal w n)).toNat = n := by
  have hgrid : ((n : ℚ) / 2 ^ w) * 2 ^ w = ((n : ℤ) : ℚ) := by
    rw [div_mul_cancel₀ _ (by positivity), Int.cast_natCast]
  have hlt : (n : ℤ) < 2 ^ w := by exact_mod_cast hn
  zify
  rw [fromReal_toNat_of_grid w (toReal_exact hw hn).1 hgrid, Int.emod_eq_of_lt (by positivity) hlt]

theorem offered_of_exec_toreal {s t : State} {a : TReg} {r : Data} (h : exec (.toreal a) s = .next t)
    (hr : t.offered = some ⟨.ok, r⟩) : r = toReal s.cfg.w (s.uint a) := by
  rw [exec_toreal] at h
  cases h
  cases hr
  rfl

/-- Settles O22: `fromReal_toReal` one way, and the error of FROMREAL the other way, to which TOREAL adds nothing. -/
theorem roundTrips : Obligations.RoundTrips := by
  refine ⟨fun s t a r h hr rd => ?_, fun s t u rd f r x y hf hfrom hto hr hy => ?_⟩
  · obtain rfl := offered_of_exec_toreal h hr
    obtain ⟨hval, -⟩ := toReal_exact s.cfg.wMax (uint_lt s a)
    exact ⟨_, exec_fromreal_of_fval rd s hval, (finish_uint_self s rd _).trans
      (fromReal_toReal s.cfg.wMax (uint_lt s a))⟩
  · rw [exec_fromreal_of_fval rd s hf] at hfrom
    cases hfrom
    obtain rfl := offered_of_exec_toreal hto hr
    rw [(toReal_exact (State.cfg _).wMax (uint_lt _ rd)).1, Option.some.injEq, finish_uint_self, finish_cfg] at hy
    subst hy
    obtain ⟨hlo, hhi⟩ := fromReal_error_bounds s.cfg.w hf
    exact ⟨hlo, hhi, fromReal_error_eq_zero_iff s.cfg.w hf⟩

end Sys2Proof.Machine
end

section
/-! Family 41_arithmetic: the arithmetic commands (O11, O12, O13, O14, O15), MULR by an integer (O23), the laws of
MULI (O24), exactness modulo 1 (O25) and compound assignment (O35). -/

namespace Sys2Proof.Machine

/-! ## The torus operations in the ring of `W`-bit vectors -/

section ring

variable {w : Nat}

theorem trunc_eq_intCast (w : Nat) (x : Int) : trunc w x = (x : BitVec w) := rfl

theorem intCast_toNat (a : BitVec w) : ((a.toNat : Int) : BitVec w) = a := by
  rw [Int.cast_natCast, BitVec.natCast_eq_ofNat, BitVec.ofNat_toNat, BitVec.setWidth_eq]

theorem intCast_two_pow (w : Nat) : ((2 ^ w : Int) : BitVec w) = 0 := by
  apply BitVec.eq_of_toNat_eq
  rw [← trunc_eq_intCast, trunc_toNat', Int.emod_self, Int.toNat_zero]
  rfl

theorem torusAdd_eq (a b : BitVec w) : torusAdd a b = a + b := by
  rw [torusAdd, trunc_eq_intCast, Int.cast_add, intCast_toNat, intCast_toNat]

theorem torusSub_eq (a b : BitVec w) : torusSub a b = a - b := by
  rw [torusSub, trunc_eq_intCast, Int.cast_sub, intCast_toNat, intCast_toNat]

theorem torusNeg_eq (a : BitVec w) : torusNeg a = -a := by
  rw [torusNeg, trunc_eq_intCast, Int.cast_sub, intCast_two_pow, intCast_toNat, zero_sub]

theorem torusMulInt_eq (a : BitVec w) (k : BitVec 32) : torusMulInt a k = a * (k.toInt : BitVec w) := by
  rw [torusMulInt, trunc_eq_intCast, Int.cast_mul, intCast_toNat]

/-- A scalar enters a product of at most 32 bits through its low `W` bits alone, so its sign makes no difference
there. -/
theorem torusMulInt_eq_mul_setWidth (hw : w ≤ 32) (a : BitVec w) (k : BitVec 32) :
    torusMulInt a k = a * k.setWidth w := by
  have hlow : (k.toInt : BitVec w) = k.setWidth w := BitVec.signExtend_eq_setWidth_of_le k hw
  rw [torusMulInt_eq, hlow]

theorem torusMulInt_of_nonneg (a : BitVec w) {k : BitVec 32} (hk : 0 ≤ k.toInt) :
    torusMulInt a k = (fun x => torusAdd x a)^[k.toInt.toNat] 0 := by
  simp only [torusAdd_eq]
  rw [add_right_iterate_apply_zero, nsmul_eq_mul, torusMulInt_eq, mul_comm, ← Int.cast_natCast,
    Int.toNat_of_nonneg hk]

theorem torusMulInt_of_neg (a : BitVec w) {k : BitVec 32} (hk : k.toInt < 0) :
    torusMulInt a k = (fun x => torusSub x a)^[(-k.toInt).toNat] 0 := by
  have hk' : 0 ≤ -k.toInt := by omega
  simp only [torusSub_eq, sub_eq_add_neg]
  rw [add_right_iterate_apply_zero, nsmul_eq_mul, torusMulInt_eq, ← Int.cast_natCast, Int.toNat_of_nonneg hk',
    Int.cast_neg, neg_mul_neg, mul_comm]

end ring

/-! ## ADD, SUB and NEG -/

/-- Settles O11: ADD ends with `finish` on the truncated sum, which is the sum of the ring. -/
theorem addWrapsModulo : Obligations.AddWrapsModulo := by
  refine fun rd a b => ⟨fun data => decode_of_word_operand (by simp [encode, wordOf]) trivial,
    fun s => ⟨_, rfl, ?_⟩, fun w x y z => ?_⟩
  · have hval : (torusAdd (s.torus a) (s.torus b)).toNat = (s.uint a + s.uint b) % 2 ^ s.cfg.w := by
      rw [torusAdd_eq, BitVec.toNat_add, State.uint, State.uint]
    exact hval ▸ finish_writesOnly s rd (torusAdd (s.torus a) (s.torus b))
  · simp only [torusAdd_eq]
    exact ⟨add_comm x y, add_assoc x y z, add_zero x⟩

/-- Settles O12: SUB ends with `finish` on the truncated difference, which is the difference of the ring. -/
theorem subWrapsModulo : Obligations.SubWrapsModulo := by
  refine fun rd a b => ⟨fun data => decode_of_word_operand (by simp [encode, wordOf]) trivial,
    fun s => ⟨_, rfl, ?_⟩, fun w x y => ?_⟩
  · have hval : (torusSub (s.torus a) (s.torus b)).toNat = (((s.uint a : ℤ) - s.uint b) % 2 ^ s.cfg.w).toNat :=
      trunc_toNat' _ _
    exact hval ▸ finish_writesOnly s rd (torusSub (s.torus a) (s.torus b))
  · rw [torusSub_eq, torusAdd_eq, torusNeg_eq, sub_eq_add_neg]

/-- Settles O13: NEG ends with `finish` on the negative of the ring. -/
theorem negIsTheAdditiveInverse : Obligations.NegIsTheAdditiveInverse := by
  refine fun rd a => ⟨fun data => decode_of_word_operand (by simp [encode, wordOf]) trivial,
    fun s => ⟨_, rfl, ?_⟩, fun w x => ?_⟩
  · have hval : (torusNeg (s.torus a)).toNat = (2 ^ s.cfg.w - s.uint a) % 2 ^ s.cfg.w := by
      rw [torusNeg_eq, BitVec.toNat_neg, State.uint]
    exact hval ▸ finish_writesOnly s rd (torusNeg (s.torus a))
  · rw [torusNeg_eq, torusNeg_eq, torusAdd_eq]
    exact ⟨add_neg_cancel x, neg_neg x⟩

/-! ## MULI -/

theorem torusMulInt_toNat {w : Nat} (a : BitVec w) (k : BitVec 32) :
    (torusMulInt a k).toNat = ((a.toNat : ℤ) * k.toInt % 2 ^ w).toNat :=
  trunc_toNat' _ _

theorem torusMulInt_toNat_of_low_bits {w : Nat} (hw : w ≤ 32) (a : BitVec w) (k : BitVec 32) :
    (torusMulInt a k).toNat = a.toNat * (k.toNat % 2 ^ w) % 2 ^ w := by
  rw [torusMulInt_eq_mul_setWidth hw, BitVec.toNat_mul, BitVec.toNat_setWidth]

/-- Settles O14: the truncated product by the signed integer, by its low bits (`torusMulInt_toNat_of_low_bits`), and as
repeated addition or subtraction (`torusMulInt_of_nonneg`, `torusMulInt_of_neg`). -/
theorem muliMultipliesBySignedInteger : Obligations.MuliMultipliesBySignedInteger := by
  refine fun rd a => ⟨fun data => decode_of_word_operand (by simp [encode, wordOf]) rfl,
    fun k s => ⟨⟨_, rfl, ?_⟩, ?_, torusMulInt_of_nonneg _, torusMulInt_of_neg _⟩⟩
  · exact torusMulInt_toNat (s.torus a) k ▸ finish_writesOnly s rd (torusMulInt (s.torus a) k)
  · exact (torusMulInt_toNat (s.torus a) k).symm.trans (torusMulInt_toNat_of_low_bits s.cfg.wMax (s.torus a) k)

/-- Settles O24: up to 32 bits the scalar is its low `W` bits, and taking them commutes with the product. -/
theorem muliDistributesAndComposes : Obligations.MuliDistributesAndComposes := by
  intro w a b j k hw
  simp only [torusMulInt_eq_mul_setWidth hw, torusAdd_eq, BitVec.setWidth_mul j k hw]
  exact ⟨add_mul a b _, mul_assoc a _ _⟩

/-! ## MULR -/

/-- The integer procedure gives the floor of the exact product (R89). -/
theorem torusMulReal_toNat {w : Nat} (a : BitVec w) {k : Data} {x : ℚ} (hk : fval k = some x) :
    ((torusMulReal a k).toNat : ℤ) = ⌊(a.toNat : ℚ) * x⌋ % 2 ^ w := by
  rw [fval_eq_fdec ((fval_isSome_iff k).1 ⟨x, hk⟩), Option.some.injEq] at hk
  have hproduct : (if (fdec k).s then -1 else 1) * ((a.toNat * (fdec k).m : ℕ) : ℚ) * (2 : ℚ) ^ (fdec k).e =
      a.toNat * x := by
    rw [← hk]
    push_cast
    ring
  rw [torusMulReal, floorScaleIsTheFloorOfTheRational, hproduct]

theorem exec_mulr_of_fval (rd a : TReg) (s : State) {k : Data} {x : ℚ} (hk : fval k = some x) :
    exec (.mulr rd a k) s = .next (finish s rd (torusMulReal (s.torus a) k)) :=
  exec_mulr_of_finite rd a s ((ffinite_iff k).2 ((fval_isSome_iff k).1 ⟨x, hk⟩))

theorem exec_mulr_of_fval_none (rd a : TReg) (s : State) {k : Data} (hk : fval k = none) :
    exec (.mulr rd a k) s = .next (raise .invalidInput s) :=
  exec_mulr_of_not_finite rd a s (by simp [ffinite, (fval_eq_none_iff k).1 hk])

/-- Settles O15: `finish` writes the floor of the product; without a value, `raise`, whatever the register holds. -/
theorem mulrFloorsTheExactProduct : Obligations.MulrFloorsTheExactProduct := by
  refine fun rd a => ⟨fun data => decode_of_word_operand (by simp [encode, wordOf]) rfl,
    fun k s => ⟨fun x hk => ⟨_, exec_mulr_of_fval rd a s hk, ?_⟩, exec_mulr_of_fval_none rd a s⟩⟩
  rw [State.uint, ← torusMulReal_toNat (s.torus a) hk, Int.toNat_natCast]
  exact finish_writesOnly s rd _

/-- The product by an integer is an integer, so the floor takes nothing off it. -/
theorem torusMulReal_of_integer {w : Nat} (a : BitVec w) {k : Data} {j : BitVec 32}
    (hk : fval k = some (j.toInt : ℚ)) : torusMulReal a k = torusMulInt a j := by
  have hfloor : ⌊(a.toNat : ℚ) * (j.toInt : ℚ)⌋ = a.toNat * j.toInt := by
    rw [← Int.cast_natCast, ← Int.cast_mul, Int.floor_intCast]
  apply BitVec.eq_of_toNat_eq
  zify
  rw [torusMulReal_toNat a hk, hfloor, torusMulInt, trunc_toNat]

/-- Settles O23: both commands end with `finish`, on the same product. -/
theorem mulrAgreesWithMuliOnIntegers : Obligations.MulrAgreesWithMuliOnIntegers := by
  intro s rd a k j hk
  rw [exec_mulr_of_fval rd a s hk, torusMulReal_of_integer (s.torus a) hk]
  rfl

/-! ## Exactness modulo 1 -/

/-- Truncation to `W` bits is reduction modulo 1, in units of `2^-W` (R91). -/
theorem trunc_div_two_pow (w : Nat) (x : Int) : ((trunc w x).toNat : ℚ) / 2 ^ w = Int.fract ((x : ℚ) / 2 ^ w) := by
  have hinner : ((trunc w x).toNat : ℚ) = ((x % 2 ^ w : ℤ) : ℚ) := by exact_mod_cast trunc_toNat w x
  have hfract : Int.fract ((x : ℚ) / (2 ^ w : ℕ)) = ((x % (2 ^ w : ℕ) : ℤ) : ℚ) / (2 ^ w : ℕ) :=
    Int.fract_div_intCast_eq_div_intCast_mod
  push_cast at hfract
  rw [hinner, hfract]

/-- Settles O25: each result is the truncation of the exact one (`trunc_div_two_pow`); NEG's `2^W` counts as a whole
turn. -/
theorem arithmeticIsExactModuloOne : Obligations.ArithmeticIsExactModuloOne := by
  intro w a b k
  have hpow : (2 : ℚ) ^ w ≠ 0 := by positivity
  refine ⟨?_, ?_, ?_, ?_⟩
  · rw [torusAdd, trunc_div_two_pow]
    push_cast
    rw [add_div]
  · rw [torusSub, trunc_div_two_pow]
    push_cast
    rw [sub_div]
  · rw [torusNeg, trunc_div_two_pow]
    push_cast
    rw [sub_div, div_self hpow, sub_eq_neg_add, Int.fract_add_one]
  · rw [torusMulInt, trunc_div_two_pow]
    push_cast
    rw [mul_div_right_comm]

/-! ## Compound assignment -/

/-- Two commands that end with `finish` on one value, in registers `d` and `r`. -/
def FinishAlike (s : State) (d r : TReg) (long short : Instr) : Prop :=
  ∃ v : BitVec s.cfg.w, exec long s = .next (finish s d v) ∧ exec short s = .next (finish s r v)

theorem FinishAlike.same_result {s t u : State} {d r : TReg} {long short : Instr} (h : FinishAlike s d r long short)
    (ht : exec long s = .next t) (hu : exec short s = .next u) : u.uint r = t.uint d ∧ u.offered = t.offered := by
  obtain ⟨v, hlong, hshort⟩ := h
  obtain rfl : finish s d v = t := Host.Outcome.next.inj (hlong.symm.trans ht)
  obtain rfl : finish s r v = u := Host.Outcome.next.inj (hshort.symm.trans hu)
  exact ⟨by rw [finish_uint_self, finish_uint_self], rfl⟩

/-- Settles O35: the value is computed from the sources as they were before the command, whatever its destination. -/
theorem compoundAssignmentMatchesTheLongForm : Obligations.CompoundAssignmentMatchesTheLongForm := by
  intro s t u d r b k f long short hforms ht hu
  have halike : FinishAlike s d r long short := by
    simp only [List.mem_cons, List.not_mem_nil, or_false, Prod.mk.injEq] at hforms
    rcases hforms with (⟨rfl, rfl⟩ | ⟨rfl, rfl⟩ | ⟨rfl, rfl⟩) | ⟨⟨rfl, rfl⟩, hf⟩
    · exact ⟨_, rfl, rfl⟩
    · exact ⟨_, rfl, rfl⟩
    · exact ⟨_, rfl, rfl⟩
    · exact ⟨_, exec_mulr_of_finite d r s hf, exec_mulr_of_finite r r s hf⟩
  exact halike.same_result ht hu

end Sys2Proof.Machine
end

section
/-! Family 42_sign: the sign predicate (O10), and the sign of a negated value (O26). -/

namespace Sys2Proof.Machine

/-! ## The two sides of the midpoint (R100) -/

section sides

variable {w : Nat} {a : BitVec w}

theorem signData_of_lt (h : a.toNat < 2 ^ (w - 1)) : signData a = 1 := if_pos h

theorem signData_of_le (h : 2 ^ (w - 1) ≤ a.toNat) : signData a = -1 := if_neg h.not_gt

end sides

/-- The response data is the two's complement of the integer that R100 names. -/
theorem signData_eq_ofInt {w : Nat} (a : BitVec w) :
    signData a = BitVec.ofInt 64 (if a.toNat < 2 ^ (w - 1) then 1 else -1) := by
  split
  · next hlow => exact signData_of_lt hlow
  · next hhigh => exact signData_of_le (not_lt.1 hhigh)

theorem exec_sign (a : TReg) (s : State) :
    exec (.sign a) s = .next { s with offered := some ⟨.ok, signData (s.torus a)⟩ } := rfl

/-- Settles O10: SIGN responds with `signData` of its register. -/
theorem signPutsTheMidpointOnTheNegativeSide : Obligations.SignPutsTheMidpointOnTheNegativeSide := by
  refine fun a => ⟨fun data => decode_of_word_operand (by simp [encode, wordOf]) trivial, fun s => ?_⟩
  rw [exec_sign, signData_eq_ofInt, State.uint]

/-! ## The sign of a negated value (R87, R100) -/

section negated

variable {w : Nat} {a : BitVec w}

theorem torusNeg_of_zero (h : a.toNat = 0) : torusNeg a = a := by
  obtain rfl : a = 0 := BitVec.eq_of_toNat_eq h
  rw [torusNeg_eq, neg_zero]

/-- But for 0, NEG reflects the turn. -/
theorem torusNeg_toNat_of_ne_zero (h : a.toNat ≠ 0) : (torusNeg a).toNat = 2 ^ w - a.toNat := by
  have hlt := a.isLt
  rw [torusNeg_eq, BitVec.toNat_neg, Nat.mod_eq_of_lt (by omega)]

theorem torusNeg_of_midpoint (hw : 1 ≤ w) (h : a.toNat = 2 ^ (w - 1)) : torusNeg a = a := by
  have hne : a.toNat ≠ 0 := by rw [h]; positivity
  apply BitVec.eq_of_toNat_eq
  rw [torusNeg_toNat_of_ne_zero hne, h, ← Nat.two_pow_pred_add_two_pow_pred hw, Nat.add_sub_cancel]

/-- The reflection takes the two open halves of the turn to each other. -/
theorem signData_torusNeg (hw : 1 ≤ w) (hzero : a.toNat ≠ 0) (hmid : a.toNat ≠ 2 ^ (w - 1)) :
    signData (torusNeg a) = -signData a := by
  have hturn := Nat.two_pow_pred_add_two_pow_pred hw
  have hneg := torusNeg_toNat_of_ne_zero hzero
  rcases hmid.lt_or_gt with hlow | hhigh
  · rw [signData_of_lt hlow, signData_of_le (by omega)]
  · have hlt := a.isLt
    rw [signData_of_le hhigh.le, signData_of_lt (by omega), neg_neg]

end negated

/-- Settles O26: NEG swaps the open halves (`signData_torusNeg`) and fixes 0 and the midpoint. -/
theorem signOfNegIsOppositeButAtTheTwoFixedPoints : Obligations.SignOfNegIsOppositeButAtTheTwoFixedPoints := by
  refine fun p a => ⟨signData_torusNeg p.wPos, fun hzero => ?_, fun hmid => ?_⟩
  · have hsign : signData a = 1 := signData_of_lt (by rw [hzero]; positivity)
    exact ⟨hsign, by rw [torusNeg_of_zero hzero, hsign]⟩
  · have hsign : signData a = -1 := signData_of_le hmid.ge
    exact ⟨hsign, by rw [torusNeg_of_midpoint p.wPos hmid, hsign]⟩

end Sys2Proof.Machine
end

section
/-! Family 43_sampling: the sampling commands (O16, O17, O27, O28), the test of the standard deviation (O20), what the
other commands see of the random source (O33), and draws that come late (O49). -/

namespace Sys2Proof.Machine

/-! ## The test of the standard deviation (R109) -/

theorem sigmaValid_iff (sd : Data) :
    sigmaValid sd = true ↔ fexp sd ≠ 2047 ∧ (fsign sd = false ∨ fexp sd = 0 ∧ fman sd = 0) := by
  simp [sigmaValid]

theorem fdec_s (b : Data) : (fdec b).s = fsign b := by
  unfold fdec
  split <;> rfl

/-- The magnitude of a finite pattern is zero for the two zeros alone: a normal number has its leading one. -/
theorem fdec_m_eq_zero_iff (b : Data) : (fdec b).m = 0 ↔ fexp b = 0 ∧ fman b = 0 := by
  by_cases h0 : fexp b = 0
  · simp [fdec_of_fexp_zero h0, h0]
  · simp [fdec_of_normal h0, h0]

theorem signed_magnitude_nonneg_iff (s : Bool) (m : Nat) (e : ℤ) :
    0 ≤ (if s then -1 else 1) * (m : ℚ) * (2 : ℚ) ^ e ↔ s = false ∨ m = 0 := by
  have hscale : (0 : ℚ) < 2 ^ e := by positivity
  rw [mul_nonneg_iff_of_pos_right hscale]
  cases s <;> simp

/-- Settles O20: the value is the signed magnitude of `fdec`, and only the zeros have magnitude zero. -/
theorem sigmaValidMeansFiniteAndNotNegative : Obligations.SigmaValidMeansFiniteAndNotNegative := by
  intro sd
  rw [sigmaValid_iff]
  by_cases hfin : fexp sd = 2047
  · simp [hfin, (fval_eq_none_iff sd).2 hfin]
  · simp only [fval_eq_fdec hfin, Option.some.injEq, exists_eq_left', signed_magnitude_nonneg_iff, fdec_s,
      fdec_m_eq_zero_iff, ne_eq, hfin, not_false_eq_true, true_and]

/-! ## The sampling commands as one draw -/

theorem exec_uniform (rd : TReg) {s : State} (hr : s.cfg.hasRng = true) :
    exec (.uniform rd) s = .next (rngDraw .bits 0 s fun t x => finish t rd (rawOperand t.cfg.w x)) := by
  simp [exec, execUniform, hr]

theorem exec_normal (rd : TReg) {sd : Data} {s : State} (hr : s.cfg.hasRng = true) (hsd : sigmaValid sd = true) :
    exec (.normal rd sd) s = .next (rngDraw .gauss sd s (encodeReal rd)) := by
  simp [exec, execNormal, hr, hsd]

/-- A standard deviation that is not valid is answered before any draw (R117). -/
theorem exec_normal_of_not_sigmaValid (rd : TReg) {sd : Data} {s : State} (hr : s.cfg.hasRng = true)
    (hsd : sigmaValid sd = false) : exec (.normal rd sd) s = .next (raise .invalidParam s) := by
  simp [exec, execNormal, hr, hsd]

/-- Without a random-source port both sampling commands are illegal, before every other test (R60, R105). -/
theorem exec_of_samples_of_no_rng {i : Instr} {s : State} (hi : i.samples = true) (hr : s.cfg.hasRng = false) :
    exec i s = .next (raise .illegalCmd s) := by
  cases i with
  | uniform rd => simp [exec, execUniform, hr]
  | normal rd sd => simp [exec, execNormal, hr]
  | fromraw | fromreal | toraw | toreal | sign | add | sub | neg | muli | mulr => cases hi

theorem drawOf_normal (rd : TReg) {sd : Data} (hsd : sigmaValid sd = true) :
    drawOf (.normal rd sd) = some ⟨.gauss, sd⟩ := by
  simp [drawOf, hsd]

/-- A command that makes a draw request is that draw, whatever the state holds, followed by what it does with the
answer (R106). -/
theorem exec_of_drawOf {i : Instr} {req : DrawRequest} (hreq : drawOf i = some req) :
    ∃ rest, ∀ s : State, s.cfg.hasRng = true → exec i s = .next (rngDraw req.kind req.sigma s rest) := by
  cases i with
  | uniform rd => cases hreq; exact ⟨_, fun s hr => exec_uniform rd hr⟩
  | normal rd sd =>
    cases hsd : sigmaValid sd
    · simp [drawOf, hsd] at hreq
    · rw [drawOf_normal rd hsd] at hreq
      cases hreq
      exact ⟨_, fun s hr => exec_normal rd hr hsd⟩
  | fromraw | fromreal | toraw | toreal | sign | add | sub | neg | muli | mulr => cases hreq

/-- A command whose request is taken, but not answered yet, waits with the request outstanding (R106, R146). -/
theorem exec_of_draw_not_answered {i : Instr} {req : DrawRequest} {s : State} (hreq : drawOf i = some req)
    (hr : s.cfg.hasRng = true) (hp : s.drawPending = none) (hy : s.rngReady = true) (hin : s.drawIn = []) :
    exec i s = .next { s with
      drawOffered := none, drawPending := some req, drawRequests := s.drawRequests ++ [req] } := by
  obtain ⟨rest, hexec⟩ := exec_of_drawOf hreq
  rw [hexec s hr, rngDraw_of_wait _ _ _ (.inl hin), requestDraw_of_ready _ _ hp hy]

/-- A draw that is taken and answered at once (R106). -/
theorem rngDraw_of_ready (k : DrawKind) (sigma : Data) {s : State} (rest : State → Data → State) {x : Data}
    {xs : List Data} (hp : s.drawPending = none) (hy : s.rngReady = true) (hin : s.drawIn = x :: xs) :
    rngDraw k sigma s rest = rest (afterDraw s ⟨k, sigma⟩ xs) x := by
  rw [rngDraw_of_answer k sigma rest (.inr hy) hin, consumed_of_ready k sigma xs hp hy]

/-! ## UNIFORM (R107) -/

theorem exec_uniform_of_answer (rd : TReg) {s : State} {x : Data} {xs : List Data} (hr : s.cfg.hasRng = true)
    (hp : s.drawPending = none) (hy : s.rngReady = true) (hin : s.drawIn = x :: xs) :
    exec (.uniform rd) s =
      .next (finish (afterDraw s ⟨.bits, 0⟩ xs) rd (rawOperand (afterDraw s ⟨.bits, 0⟩ xs).cfg.w x)) := by
  rw [exec_uniform rd hr, rngDraw_of_ready _ _ _ hp hy hin]

theorem rawOperand_toNat (w : Nat) (d : Data) : (rawOperand w d).toNat = d.toNat % 2 ^ w :=
  BitVec.toNat_setWidth w d

/-- Settles O16: `finish` on the low bits of the answer, or the wait of a draw, or the error of R105. -/
theorem uniformKeepsTheLowBitsOfOneDraw : Obligations.UniformKeepsTheLowBitsOfOneDraw := by
  refine fun rd => ⟨fun data => decode_of_word_operand (by simp [encode, wordOf]) trivial, fun s =>
    ⟨fun hr hp hy x xs hin => ⟨_, exec_uniform_of_answer rd hr hp hy hin, ?_⟩,
      exec_of_draw_not_answered rfl, exec_of_draw_not_taken rfl, exec_of_samples_of_no_rng rfl⟩⟩
  rw [← rawOperand_toNat]
  exact finish_writesOnly (afterDraw s ⟨.bits, 0⟩ xs) rd (rawOperand s.cfg.w x)

/-- Settles O28: the answer that is `n` itself yields `n`, since the draw is wider than the register. -/
theorem uniformReachesEveryValue : Obligations.UniformReachesEveryValue := by
  intro s rd n hr hp hy hn
  have hwide : 2 ^ s.cfg.w ≤ 2 ^ 64 := Nat.pow_le_pow_right two_pos (s.cfg.wMax.trans (by decide))
  refine ⟨BitVec.ofNat 64 n, _,
    exec_uniform_of_answer (s := backendAnswer _ { s with drawIn := [] }) rd hr hp hy rfl, ?_⟩
  rw [finish_uint_self, rawOperand_toNat, BitVec.toNat_ofNat, Nat.mod_eq_of_lt (hn.trans_le hwide)]
  exact Nat.mod_eq_of_lt hn

/-! ## NORMAL (R108) -/

/-- Settles O27: with its draw taken and answered, NORMAL goes on as FROMREAL does with the answer. -/
theorem normalIsFromrealOfTheDraw : Obligations.NormalIsFromrealOfTheDraw := by
  intro s rd sd x xs hr hsd hp hy hin
  rw [exec_normal rd hr hsd, rngDraw_of_ready _ _ _ hp hy hin]
  rfl

/-- Settles O17: a valid standard deviation (O20) leads to the draw, whose answer FROMREAL encodes (O27). -/
theorem normalEncodesOneGaussianDraw : Obligations.NormalEncodesOneGaussianDraw := by
  refine fun rd sd => ⟨decode_of_word_operand (by simp [encode, wordOf]) rfl, fun s => ?_⟩
  rw [← sigmaValidMeansFiniteAndNotNegative sd, Bool.not_eq_true]
  refine ⟨fun hr hsd hp hy x xs hin => ?_, fun hr hsd => exec_of_draw_not_answered (drawOf_normal rd hsd) hr,
    fun hr hsd => exec_of_draw_not_taken (drawOf_normal rd hsd) hr, exec_normal_of_not_sigmaValid rd,
    exec_of_samples_of_no_rng rfl⟩
  rw [normalIsFromrealOfTheDraw s rd sd x xs hr hsd hp hy hin]
  refine ⟨fun v hv => ⟨_, exec_fromreal_of_fval rd _ hv, ?_⟩, exec_fromreal_of_fval_none rd _⟩
  rw [← fromReal_toNat_eq_floor_fraction _ hv, Int.toNat_natCast]
  exact finish_writesOnly (afterDraw s ⟨.gauss, sd⟩ xs) rd (fromReal s.cfg.w x)

/-! ## The commands that do not draw (R81, R105) -/

/-- Settles O33: the random source enters none of the values that the ten commands compute, and `finish`, `respond` and
`raise` leave it as it is. -/
theorem otherCommandsDoNotSeeTheRandomSource : Obligations.OtherCommandsDoNotSeeTheRandomSource := by
  intro i s t xs b hi h
  cases i with
  | fromraw | toraw | toreal | sign | add | sub | neg | muli => cases h; exact ⟨rfl, rfl, rfl⟩
  | fromreal rd f =>
    cases hf : fval f with
    | none =>
      simp only [exec_fromreal_of_fval_none rd _ hf] at h ⊢
      cases h; exact ⟨rfl, rfl, rfl⟩
    | some x =>
      simp only [exec_fromreal_of_fval rd _ hf] at h ⊢
      cases h; exact ⟨rfl, rfl, rfl⟩
  | mulr rd a k =>
    cases hk : fval k with
    | none =>
      simp only [exec_mulr_of_fval_none rd a _ hk] at h ⊢
      cases h; exact ⟨rfl, rfl, rfl⟩
    | some x =>
      simp only [exec_mulr_of_fval rd a _ hk] at h ⊢
      cases h; exact ⟨rfl, rfl, rfl⟩
  | uniform | normal => cases hi

/-! ## Draws that come late (R106, R146) -/

/-- A request made again, after the backend has given one more answer, changes nothing (R46). -/
theorem requestDraw_again_of_answer (k : DrawKind) (sigma x : Data) (s : State) :
    requestDraw k sigma (backendAnswer x (requestDraw k sigma s)) = requestDraw k sigma (backendAnswer x s) := by
  cases hp : s.drawPending with
  | some req => rw [requestDraw_of_some k sigma hp]
  | none =>
    cases hy : s.rngReady
    · rw [requestDraw_of_not_ready k sigma hp hy, requestDraw_of_not_ready (s := backendAnswer x s) k sigma hp hy]
      exact requestDraw_of_not_ready k sigma hp hy
    · rw [requestDraw_of_ready k sigma hp hy, requestDraw_of_ready (s := backendAnswer x s) k sigma hp hy]
      exact requestDraw_of_some k sigma rfl

/-- A request made again, now that the backend takes requests, is transferred as a first one is (R50). -/
theorem requestDraw_again_of_taken (k : DrawKind) (sigma : Data) (s : State) :
    requestDraw k sigma (backendSetReady true (requestDraw k sigma s)) =
      requestDraw k sigma (backendSetReady true s) := by
  cases hp : s.drawPending with
  | some req => rw [requestDraw_of_some k sigma hp]
  | none =>
    cases hy : s.rngReady
    · rw [requestDraw_of_not_ready k sigma hp hy, requestDraw_of_ready (s := backendSetReady true s) k sigma hp rfl]
      exact requestDraw_of_ready k sigma hp rfl
    · rw [requestDraw_of_ready k sigma hp hy, requestDraw_of_ready (s := backendSetReady true s) k sigma hp rfl]
      exact requestDraw_of_some k sigma rfl

/-- A command that draws sees of the state only what its request leaves of it. -/
theorem exec_eq_of_requestDraw_eq {i : Instr} {req : DrawRequest} {s t : State} (hreq : drawOf i = some req)
    (hr : s.cfg.hasRng = true) (h : requestDraw req.kind req.sigma s = requestDraw req.kind req.sigma t) :
    exec i s = exec i t := by
  have hcfg : s.cfg = t.cfg := by simpa using congrArg State.cfg h
  obtain ⟨rest, hexec⟩ := exec_of_drawOf hreq
  rw [hexec s hr, hexec t (hcfg ▸ hr), rngDraw, rngDraw, h]

theorem runCommand_eq_of_requestDraw_eq {c : Command} {i : Instr} {req : DrawRequest} {s t : State}
    (hi : decode c = .ok i) (hreq : drawOf i = some req) (hr : s.cfg.hasRng = true)
    (h : requestDraw req.kind req.sigma s = requestDraw req.kind req.sigma t) : runCommand c s = runCommand c t := by
  simp only [runCommand, hi, exec_eq_of_requestDraw_eq hreq hr h]

/-- A step of an idle unit that leaves a request at the random-source port has taken a command that draws, and done no
more of it than its request. -/
theorem step_of_idle_to_draw {s t : State} (hr : s.rst = false) (hidle : s.Idle) (h : step s = .next t)
    (hport : t.drawOffered ≠ none ∨ t.drawPending ≠ none) :
    ∃ c rest i req, s.cmdIn = c :: rest ∧ decode c = .ok i ∧ drawOf i = some req ∧ s.cfg.hasRng = true ∧
      t = requestDraw req.kind req.sigma (accept c rest s) := by
  obtain ⟨hc, ho, hd, hp⟩ := hidle
  cases hin : s.cmdIn with
  | nil =>
    rw [step_of_nothing_offered hr ho hc hin] at h
    cases h
    simp [hd, hp] at hport
  | cons c rest =>
    rw [step_of_offered_command hr ho hc hin] at h
    rcases runCommand_cases h with ⟨-, rfl⟩ | ⟨i, u, hi, hu, rfl⟩
    · simp [hd, hp] at hport
    · rw [deliver_drawOffered, deliver_drawPending] at hport
      rcases exec_answers_or_draws hu with ⟨-, -, hd', hp', -⟩ | ⟨req, hrng, hreq, rfl | ⟨-, hd', hp'⟩⟩
      · simp [hd', hp', hd, hp] at hport
      · exact ⟨c, rest, i, req, rfl, hi, hreq, hrng, deliver_of_none (by simpa using ho)⟩
      · simp [hd', hp'] at hport

/-- Settles O49: the waiting unit runs its command again, and the request, made again, leaves what the first one leaves
with the answer, or the backend's readiness, at hand (`requestDraw_again_of_answer`, `requestDraw_again_of_taken`). -/
theorem lateDrawActsAsEarlyDraw : Obligations.LateDrawActsAsEarlyDraw := by
  refine ⟨fun s t x hr hidle _ h hport => ?_, fun s t hr hidle h hport => ?_⟩
  · obtain ⟨c, rest, i, req, hin, hi, hreq, hrng, rfl⟩ := step_of_idle_to_draw hr hidle h (.inr hport)
    obtain ⟨hc, ho, -, -⟩ := hidle
    calc step (backendAnswer x (requestDraw req.kind req.sigma (accept c rest s)))
        = runCommand c (backendAnswer x (requestDraw req.kind req.sigma (accept c rest s))) :=
          step_of_current (by simp [hr]) (by simp [ho]) (by simp)
      _ = runCommand c (backendAnswer x (accept c rest s)) :=
          runCommand_eq_of_requestDraw_eq hi hreq (by simp [hrng]) (requestDraw_again_of_answer ..)
      _ = step (backendAnswer x s) := (step_of_offered_command (s := backendAnswer x s) hr ho hc hin).symm
  · obtain ⟨c, rest, i, req, hin, hi, hreq, hrng, rfl⟩ := step_of_idle_to_draw hr hidle h (.inl hport)
    obtain ⟨hc, ho, -, -⟩ := hidle
    calc step (backendSetReady true (requestDraw req.kind req.sigma (accept c rest s)))
        = runCommand c (backendSetReady true (requestDraw req.kind req.sigma (accept c rest s))) :=
          step_of_current (by simp [hr]) (by simp [ho]) (by simp)
      _ = runCommand c (backendSetReady true (accept c rest s)) :=
          runCommand_eq_of_requestDraw_eq hi hreq (by simp [hrng]) (requestDraw_again_of_taken ..)
      _ = step (backendSetReady true s) := (step_of_offered_command (s := backendSetReady true s) hr ho hc hin).symm

end Sys2Proof.Machine
end

section
/-! Family 60_exceptions: how a command ends in an error (O30, O31), and the words that are no legal encoding (O38). -/

namespace Sys2Proof.Machine

/-! ## How a meaning ends in an error -/

/-- The ends of a meaning in an error, each with its cause: the command, the status, and the state left (R58, R116 to
R119). -/
inductive EndsInError (s : State) : Instr → Status → State → Prop
  | noPort {i : Instr} (hi : i.samples = true) (hr : s.cfg.hasRng = false) :
      EndsInError s i .illegalCmd (raise .illegalCmd s)
  | deviation {rd : TReg} {sd : Data} (hsd : sigmaValid sd = false) :
      EndsInError s (.normal rd sd) .invalidParam (raise .invalidParam s)
  | real {rd : TReg} {f : Data} (hf : fval f = none) :
      EndsInError s (.fromreal rd f) .invalidInput (raise .invalidInput s)
  | scalar {rd a : TReg} {k : Data} (hk : fval k = none) :
      EndsInError s (.mulr rd a k) .invalidInput (raise .invalidInput s)
  | draw {rd : TReg} {sd x : Data} {xs : List Data} (hsd : sigmaValid sd = true) (hin : s.drawIn = x :: xs)
      (hy : s.drawPending ≠ none ∨ s.rngReady = true) (hx : fval x = none) :
      EndsInError s (.normal rd sd) .invalidInput (raise .invalidInput (consumeDraw xs (requestDraw .gauss sd s)))

theorem fval_eq_none_of_not_finite {b : Data} (h : ffinite b = false) : fval b = none :=
  (fval_eq_none_iff b).2 (by simpa [ffinite] using h)

theorem respond_ne_raise {st e : Status} (d : Data) (u s : State) (h : st ≠ e) : respond st d u ≠ raise e s := fun heq =>
  h (congrArg Response.status (Option.some.inj (congrArg State.offered heq)))

/-- Without a draw, `INVALID_INPUT` comes from FROMREAL and MULR alone, and from an operand without a value (R116). -/
theorem endsInError_of_raise_invalidInput {i : Instr} {s : State} (hi : i.samples = false)
    (h : exec i s = .next (raise .invalidInput s)) : EndsInError s i .invalidInput (raise .invalidInput s) := by
  cases i with
  | fromreal rd f =>
    cases hf : fval f with
    | none => exact .real hf
    | some x =>
      rw [exec_fromreal_of_fval rd s hf] at h
      exact absurd (Host.Outcome.next.inj h) (respond_ne_raise _ _ _ (by decide))
  | mulr rd a k =>
    cases hk : fval k with
    | none => exact .scalar hk
    | some x =>
      rw [exec_mulr_of_fval rd a s hk] at h
      exact absurd (Host.Outcome.next.inj h) (respond_ne_raise _ _ _ (by decide))
  | fromraw | toraw | toreal | sign | add | sub | neg | muli =>
    exact absurd (Host.Outcome.next.inj h) (respond_ne_raise _ _ _ (by decide))
  | uniform | normal => cases hi

/-- A meaning that answers with an error answers data 0, and ends in one of the ways of `EndsInError`. -/
theorem exec_endsInError {i : Instr} {s t : State} {st : Status} {d : Data} (h : exec i s = .next t)
    (ho : s.offered = none) (hoff : t.offered = some ⟨st, d⟩) (hst : st ≠ .ok) : d = 0 ∧ EndsInError s i st t := by
  rcases exec_cases h with ⟨rd, v, -, -, rfl⟩ | ⟨d', -, -, rfl⟩ | ⟨hi, rfl⟩ | ⟨hi, hr, rfl⟩ |
    ⟨-, rfl, rd, sd, rfl, hsd⟩ | ⟨req, -, -, hreq, hdraw⟩
  · cases hoff; exact absurd rfl hst
  · cases hoff; exact absurd rfl hst
  · cases hoff; exact ⟨rfl, endsInError_of_raise_invalidInput hi h⟩
  · cases hoff; exact ⟨rfl, .noPort hi hr⟩
  · cases hoff; exact ⟨rfl, .deviation hsd⟩
  · rcases hdraw with ⟨-, rfl⟩ | ⟨x, xs, hin, hy, ⟨rd, v, -, rfl⟩ | ⟨rfl, rd, sd, rfl, hsd, hx⟩⟩
    · simp [ho] at hoff
    · cases hoff; exact absurd rfl hst
    · cases hoff
      rw [drawOf_normal rd hsd] at hreq
      cases hreq
      exact ⟨rfl, .draw hsd hin hy (fval_eq_none_of_not_finite hx)⟩

/-- What a draw leaves once its answer is consumed: the request was transferred then, unless it was outstanding
(R46, R106). -/
theorem consumeDraw_requestDraw (k : DrawKind) (sigma : Data) {s : State} (xs : List Data)
    (hy : s.drawPending ≠ none ∨ s.rngReady = true) :
    consumeDraw xs (requestDraw k sigma s) =
      { s with
        drawIn := xs
        drawOffered := none
        drawPending := none
        drawRequests := if s.drawPending = none then s.drawRequests ++ [⟨k, sigma⟩] else s.drawRequests } := by
  by_cases hp : s.drawPending = none
  · rw [consumed_of_ready k sigma xs hp (hy.resolve_left fun hno => hno hp), if_pos hp]
    rfl
  · obtain ⟨req, hreq⟩ := Option.ne_none_iff_exists'.1 hp
    rw [requestDraw_of_some k sigma hreq, if_neg hp]
    rfl

/-- Settles O30: every error ends with `raise`, and only that of NORMAL's draw after a draw. -/
theorem errorsLeaveNoTrace : Obligations.ErrorsLeaveNoTrace := by
  intro i s t st d h ho hoff hst
  obtain ⟨hd, herr⟩ := exec_endsInError h ho hoff hst
  refine ⟨hd, ?_⟩
  cases herr with
  | noPort | deviation | real | scalar => exact .inl rfl
  | draw hsd hin hy hx =>
    rw [consumeDraw_requestDraw _ _ _ hy]
    exact .inr ⟨_, _, _, _, rfl, rfl, hin, rfl⟩

/-- Settles O31: the causes are those of `EndsInError`. -/
theorem whichCommandsAnswerWhichError : Obligations.WhichCommandsAnswerWhichError := by
  refine fun i s t d h ho => ⟨fun hoff => ?_, fun hoff => ?_, fun hoff => ?_⟩
  · obtain ⟨-, herr⟩ := exec_endsInError h ho hoff (by decide)
    cases herr with
    | noPort hi hr => exact ⟨hi, hr⟩
  · obtain ⟨-, herr⟩ := exec_endsInError h ho hoff (by decide)
    cases herr with
    | deviation hsd => exact ⟨_, _, rfl, hsd⟩
  · obtain ⟨-, herr⟩ := exec_endsInError h ho hoff (by decide)
    cases herr with
    | real hf => exact .inl ⟨_, _, .inl rfl, hf⟩
    | scalar hk => exact .inl ⟨_, _, .inr ⟨_, rfl⟩, hk⟩
    | draw hsd hin hy hx => exact .inr ⟨_, _, _, _, rfl, hsd, hin, hx⟩

end Sys2Proof.Machine

/-! ## The words that are no legal encoding -/

namespace Sys2Proof

section row

/-! A word `w` of the row `row` of the opcode table. -/

variable {w : CmdWord} {row : CmdWord × CmdWord} (hrow : row ∈ opcodeRows) (h : w &&& row.2 = row.1)
include h

/-- Bits that the row's mask covers and that its match leaves at zero are zero in the word. -/
theorem and_eq_zero_of_row {m : CmdWord} (hm : row.2 &&& m = m ∧ row.1 &&& m = 0) : w &&& m = 0 := by
  obtain ⟨hmask, hmatch⟩ := hm
  rw [← hmask, ← BitVec.and_assoc, h, hmatch]

include hrow

/-- Every row fixes all of `OP`. -/
theorem shiftRight_of_row : w >>> 12 = row.1 >>> 12 := by
  have hmask : ∀ row ∈ opcodeRows, row.2.toNat / 2 ^ 12 % 2 ^ 4 = 2 ^ 4 - 1 := by simp [opcodeRows]
  have hbits := bits_eq_of_and_eq h (hmask row hrow)
  have hw := w.isLt
  have hv := row.1.isLt
  apply BitVec.eq_of_toNat_eq
  simp only [BitVec.toNat_ushiftRight, Nat.shiftRight_eq_div_pow]
  omega

/-- Of the causes of R118, the only one that a word of a row can have is that it is a sampling command in a unit
without a random-source port (R60). -/
theorem sampling_op_of_illegalWord {p : Params} (hill : IllegalWord p w) :
    p.hasRng = false ∧ w >>> 12 ∈ ([0xB, 0xC] : List CmdWord) := by
  have hreserved : ∀ row ∈ opcodeRows, row.1 >>> 12 ∉ ([0x0, 0xD, 0xE, 0xF] : List CmdWord) := by simp [opcodeRows]
  have hz : ∀ row ∈ opcodeRows, row.2 &&& 0x0007 = 0x0007 ∧ row.1 &&& 0x0007 = 0 := by simp [opcodeRows]
  have hrd : ∀ row ∈ opcodeRows, row.1 >>> 12 ∈ ([0x1, 0x2, 0xB, 0xC] : List CmdWord) →
      row.2 &&& 0x01F8 = 0x01F8 ∧ row.1 &&& 0x01F8 = 0 := by simp [opcodeRows]
  have hrs1 : ∀ row ∈ opcodeRows, row.1 >>> 12 ∈ ([0x3, 0x4, 0x5] : List CmdWord) →
      row.2 &&& 0x0E38 = 0x0E38 ∧ row.1 &&& 0x0E38 = 0 := by simp [opcodeRows]
  have hrs2 : ∀ row ∈ opcodeRows, row.1 >>> 12 ∈ ([0x8, 0x9, 0xA] : List CmdWord) →
      row.2 &&& 0x0038 = 0x0038 ∧ row.1 &&& 0x0038 = 0 := by simp [opcodeRows]
  have hop := shiftRight_of_row hrow h
  rcases hill with hres | hsampling | hne | ⟨hmem, hne⟩ | ⟨hmem, hne⟩ | ⟨hmem, hne⟩
  · exact absurd (hop ▸ hres) (hreserved row hrow)
  · exact hsampling
  · exact absurd (and_eq_zero_of_row h (hz row hrow)) hne
  · exact absurd (and_eq_zero_of_row h (hrd row hrow (hop ▸ hmem))) hne
  · exact absurd (and_eq_zero_of_row h (hrs1 row hrow (hop ▸ hmem))) hne
  · exact absurd (and_eq_zero_of_row h (hrs2 row hrow (hop ▸ hmem))) hne

end row

theorem samples_of_row_op {i : Instr} (h : i.row.1 >>> 12 ∈ ([0xB, 0xC] : List CmdWord)) : i.samples = true := by
  cases i with
  | uniform | normal => rfl
  | fromraw | fromreal | toraw | toreal | sign | add | sub | neg | muli | mulr =>
    exact absurd h (by simp only [Instr.row]; decide)

/-- A decoded word is illegal only for want of the port: it is a sampling command and the unit has none (R58 step 2,
R60). -/
theorem samples_of_illegalWord {p : Params} {c : Command} {i : Instr} (hi : decode c = .ok i)
    (hill : IllegalWord p c.cmd) : i.samples = true ∧ p.hasRng = false := by
  have hmatch := matches_row_of_decode hi
  obtain ⟨hr, hop⟩ := sampling_op_of_illegalWord (row_mem_opcodeRows i) hmatch hill
  rw [shiftRight_of_row (row_mem_opcodeRows i) hmatch] at hop
  exact ⟨samples_of_row_op hop, hr⟩

end Sys2Proof

namespace Sys2Proof.Machine

/-- An illegal word ends with `ILLEGAL_CMD`, whether the decoder or the meaning finds it illegal (R58, R118). -/
theorem runCommand_of_illegalWord {c : Command} {s : State} (hill : IllegalWord s.cfg c.cmd) :
    runCommand c s = .next (deliver (raise .illegalCmd s)) := by
  cases hd : decode c with
  | error e => exact runCommand_of_illegal s hd
  | ok i =>
    obtain ⟨hi, hr⟩ := samples_of_illegalWord hd hill
    exact runCommand_of_exec hd (exec_of_samples_of_no_rng hi hr)

/-- Settles O38: the idle unit takes the word, which ends with `raise` (`runCommand_of_illegalWord`), and the response
channel has its turn. -/
theorem illegalWordsAreAnsweredAndChangeNothing : Obligations.IllegalWordsAreAnsweredAndChangeNothing := by
  intro s w data rest hr ho hc hin hill
  have hrun : runCommand ⟨w, data⟩ (accept ⟨w, data⟩ rest s) =
      .next (deliver (raise .illegalCmd (accept ⟨w, data⟩ rest s))) := runCommand_of_illegalWord hill
  exact ⟨_, (step_of_offered_command hr ho hc hin).trans hrun, deliver_delivered _⟩

end Sys2Proof.Machine
end

section
/-! Family 70_reset_and_hazards: commands and responses one at a time (O45), the response that is held (O47), the waits
at the random-source port (O48), and the step while `RST` is asserted (O50). -/

namespace Sys2Proof.Machine

/-! ## The response channel (R50, R145) -/

/-- From `s` to `t` no response was transferred, or exactly one, which the host took and which left no command in
execution. -/
def TransfersAtMostOneResponse (s t : State) : Prop :=
  t.responses = s.responses ∨
    s.rspReady = true ∧ t.current = none ∧ t.offered = none ∧ ∃ r, t.responses = s.responses ++ [r]

theorem deliver_transfersAtMostOneResponse (s : State) : TransfersAtMostOneResponse s (deliver s) := by
  cases ho : s.offered with
  | none => exact .inl (by rw [deliver_of_none ho])
  | some r =>
    cases hy : s.rspReady with
    | false => exact .inl (by rw [(deliver_delivered s).2 (.inr hy)])
    | true =>
      rw [deliver_of_ready ho hy]
      exact .inr ⟨hy, rfl, rfl, r, rfl⟩

/-- A command transfers a response only at its end, when its meaning is done. -/
theorem runCommand_transfersAtMostOneResponse {c : Command} {s t : State} (h : runCommand c s = .next t) :
    TransfersAtMostOneResponse s t := by
  rcases runCommand_cases h with ⟨-, rfl⟩ | ⟨i, u, -, hu, rfl⟩
  · exact deliver_transfersAtMostOneResponse (raise .illegalCmd s)
  · simpa only [TransfersAtMostOneResponse, exec_responses hu, (exec_host hu).1] using
      deliver_transfersAtMostOneResponse u

theorem step_transfersAtMostOneResponse {s t : State} (h : step s = .next t) : TransfersAtMostOneResponse s t := by
  rcases step_cases h with ⟨-, rfl⟩ | ⟨-, -, rfl⟩ | ⟨-, -, c, -, hrun⟩ | ⟨-, -, -, -, rfl⟩ |
    ⟨-, -, -, c, rest, -, hrun⟩
  · exact .inl rfl
  · exact deliver_transfersAtMostOneResponse s
  · exact runCommand_transfersAtMostOneResponse hrun
  · exact .inl rfl
  · exact runCommand_transfersAtMostOneResponse (s := accept c rest s) hrun

/-- A step while `RST` is asserted transfers no response (R140). -/
theorem step_responses_of_rst {s t : State} (hr : s.rst = true) (h : step s = .next t) :
    t.responses = s.responses := by
  rw [step_of_rst hr] at h
  cases h
  rfl

/-- Settles O47: an offered response is the response channel's turn, and nothing else moves in that step. -/
theorem responseIsHeldUntilTaken : Obligations.ResponseIsHeldUntilTaken := by
  intro s r hr ho
  rw [step_of_offered hr ho]
  obtain ⟨hsent, hheld⟩ := deliver_delivered s
  exact ⟨fun hy => by rw [hheld (.inr hy)], fun hy => by rw [hsent r ho hy]⟩

/-! ## The command channel (R50, R145) -/

/-- A command in execution takes no further one. -/
theorem runCommand_cmdIn {c : Command} {s t : State} (h : runCommand c s = .next t) : t.cmdIn = s.cmdIn := by
  rcases runCommand_cases h with ⟨-, rfl⟩ | ⟨i, u, -, hu, rfl⟩
  · simp
  · rw [deliver_cmdIn, (exec_host hu).2]

/-- A step takes no command, or it takes the first one offered, and that with nothing in execution or on offer. -/
theorem step_takesAtMostTheFirstCommand {s t : State} (h : step s = .next t) :
    t.cmdIn = s.cmdIn ∨ s.rst = false ∧ s.current = none ∧ s.offered = none ∧ ∃ c, s.cmdIn = c :: t.cmdIn := by
  rcases step_cases h with ⟨-, rfl⟩ | ⟨-, -, rfl⟩ | ⟨-, -, c, -, hrun⟩ | ⟨-, -, -, -, rfl⟩ |
    ⟨hr, ho, hc, c, rest, hin, hrun⟩
  · exact .inl rfl
  · exact .inl (deliver_cmdIn s)
  · exact .inl (runCommand_cmdIn hrun)
  · exact .inl rfl
  · refine .inr ⟨hr, hc, ho, c, ?_⟩
    rw [runCommand_cmdIn hrun, accept_cmdIn, hin]

/-- A response transferred from a legal state is that of the command in execution or of the one just taken. -/
theorem step_response_has_command {s t : State} (hs : Coherent s) (h : step s = .next t)
    (hne : t.responses ≠ s.responses) : s.current ≠ none ∨ t.cmdIn ≠ s.cmdIn := by
  rcases step_cases h with ⟨-, rfl⟩ | ⟨-, ⟨r, ho⟩, -⟩ | ⟨-, -, c, hc, -⟩ | ⟨-, -, -, -, rfl⟩ |
    ⟨-, -, -, c, rest, hin, hrun⟩
  · exact absurd rfl hne
  · refine .inl fun hc => ?_
    obtain ⟨-, ho', -, -⟩ := idle_of_coherent_of_no_command hs hc
    simp [ho] at ho'
  · exact .inl (by simp [hc])
  · exact absurd rfl hne
  · refine .inr ?_
    rw [runCommand_cmdIn hrun, accept_cmdIn, hin]
    exact (List.cons_ne_self c rest).symm

/-- Settles O45: the three clauses are `step_takesAtMostTheFirstCommand`, `step_transfersAtMostOneResponse` and
`step_response_has_command`; a reset transfers nothing. -/
theorem commandsAreTakenOneAtATimeInOrder : Obligations.CommandsAreTakenOneAtATimeInOrder := by
  intro s t h
  refine ⟨step_takesAtMostTheFirstCommand h, ?_, fun hs hne => step_response_has_command hs h hne⟩
  cases hr : s.rst with
  | true => exact .inl (step_responses_of_rst hr h)
  | false => exact (step_transfersAtMostOneResponse h).imp_right fun hsent => ⟨rfl, hsent⟩

/-! ## The step while `RST` is asserted (R140, R142) -/

/-- Settles O50: the step is `applyReset`, which leaves the ports as they are but for the answer to an abandoned
request. -/
theorem assertedResetIdlesTheUnit : Obligations.AssertedResetIdlesTheUnit := fun s hr =>
  ⟨applyReset s, step_of_rst hr, applyReset_idle s, rfl, rfl, rfl, rfl, hr, rfl, applyReset_drawIn_of_none s,
    fun _ hp => applyReset_drawIn_of_some s hp⟩

/-! ## The waits at the random-source port (R50, R146) -/

/-- In a legal state a request at the port is the one that the command in execution makes, and that command has no
response yet. -/
theorem command_of_request {s : State} {req : DrawRequest} (hs : Coherent s)
    (hport : s.drawOffered = some req ∨ s.drawPending = some req) :
    ∃ c i, s.current = some c ∧ s.offered = none ∧ s.cfg.hasRng = true ∧ decode c = .ok i ∧ drawOf i = some req ∧
      (s.drawOffered = some req → s.drawPending = none) := by
  rcases coherent_cases hs with ⟨-, -, hd, hp⟩ | ⟨c, r, -, -, hd, hp⟩ | ⟨c, i, req', hc, ho, hrng, hi, hreq, hport'⟩
  · simp [hd, hp] at hport
  · simp [hd, hp] at hport
  · refine ⟨c, i, hc, ho, hrng, hi, ?_⟩
    rcases hport' with ⟨hd, hp⟩ | ⟨hd, hp⟩
    · obtain rfl : req' = req := by simpa [hd, hp] using hport
      exact ⟨hreq, fun _ => hp⟩
    · obtain rfl : req' = req := by simpa [hd, hp] using hport
      exact ⟨hreq, fun hd' => by simp [hd] at hd'⟩

/-- A request that is on offer already, made again while the backend takes none, changes nothing (R46, R50). -/
theorem requestDraw_of_offered_not_taken {s : State} {req : DrawRequest} (hd : s.drawOffered = some req)
    (hp : s.drawPending = none) (hy : s.rngReady = false) : requestDraw req.kind req.sigma s = s := by
  rw [requestDraw_of_not_ready _ _ hp hy, ← hd]

/-- A command that waits does no more than make its request again (R46, R146). -/
theorem step_of_wait {s : State} {c : Command} {i : Instr} {req : DrawRequest} (hr : s.rst = false)
    (hc : s.current = some c) (ho : s.offered = none) (hrng : s.cfg.hasRng = true) (hi : decode c = .ok i)
    (hreq : drawOf i = some req) (hwait : s.drawIn = [] ∨ s.drawPending = none ∧ s.rngReady = false) :
    step s = .next (requestDraw req.kind req.sigma s) := by
  obtain ⟨rest, hexec⟩ := exec_of_drawOf hreq
  have hrun : exec i s = .next (requestDraw req.kind req.sigma s) := by
    rw [hexec s hrng, rngDraw_of_wait _ _ _ hwait]
  rw [step_of_current hr ho hc, runCommand_of_exec hi hrun, deliver_of_none (by simpa using ho)]

/-- Settles O48: the waiting command makes its request again (`step_of_wait`), which changes nothing while the request
is outstanding, nor while it is on offer to a backend that takes none. -/
theorem onlyTheBackendLiftsTheWait : Obligations.OnlyTheBackendLiftsTheWait := by
  intro s req hs hr
  refine ⟨fun hp hin => ?_, fun hd hy => ?_⟩
  · obtain ⟨c, i, hc, ho, hrng, hi, hreq, -⟩ := command_of_request hs (.inr hp)
    rw [step_of_wait hr hc ho hrng hi hreq (.inl hin), requestDraw_of_some _ _ hp]
  · obtain ⟨c, i, hc, ho, hrng, hi, hreq, hnone⟩ := command_of_request hs (.inl hd)
    rw [step_of_wait hr hc ho hrng hi hreq (.inr ⟨hnone hd, hy⟩), requestDraw_of_offered_not_taken hd (hnone hd) hy]

end Sys2Proof.Machine
end
